-- ==== Sys2Proof/Word.lean ====
section
/-!
DEFINITION. The word types of the core: a byte of `BYTE_W = 8` bits (R6, R61), the 11-bit event word (R80), the 5-bit
transmit key (R95), the 10-bit result word (R86) and the 38-bit configuration word (R90). Everything is unsigned (R8).
-/

namespace Sys2Proof

/-- A byte: the one datum the core stores, moves, receives or sends (R61). -/
abbrev Byte := BitVec 8

/-- The event word `EV` (R80): `EV[10:8]` is the kind, `EV[7:0]` the data. -/
abbrev EventWord := BitVec 11

/-- The transmit key `TXK` (R95). -/
abbrev TxKey := BitVec 5

/-- The result word `RES` (R86). -/
abbrev ResultWord := BitVec 10

/-- The configuration word `CFGW` (R90). -/
abbrev ConfigWord := BitVec 38

end Sys2Proof
end

