-- ==== Sys2Proof/Config.lean ====
section
/-!
DEFINITION. What an implementation fixes: the line-discipline configuration `cfg` (R30 to R47), the parameters of R6, the
spec's test profile T1 (`95_test_vectors.md`, "Conventions"), and the one free value, the byte a slot of storage holds before
anything is written to it (R64).
-/

namespace Sys2Proof

/-- `cfg`, the LineDiscipline Config (R30): 14 flags and three character codes, given once to `init`, immutable after. -/
structure LineConfig where
  /-- R31: input is line-buffered. -/
  canonical : Bool
  /-- R32: admitted bytes are echoed. -/
  echo : Bool
  /-- R33: erase and word-erase are shown by a visual erase. -/
  echoe : Bool
  /-- R34: kill is shown by a visual erase. -/
  echok : Bool
  /-- R35: a control byte is echoed as two bytes. -/
  echoctl : Bool
  /-- R36: `NL` is echoed even without `echo`. -/
  echonl : Bool
  /-- R37: a received `CR` becomes `NL`. -/
  icrnl : Bool
  /-- R38: a received `NL` becomes `CR`. -/
  inlcr : Bool
  /-- R39: a received `CR` is discarded. -/
  igncr : Bool
  /-- R40: bit 7 of a received byte is cleared. -/
  istrip : Bool
  /-- R41: a dequeued `CR` is sent as `NL`. -/
  ocrnl : Bool
  /-- R42: a dequeued `NL` is sent as `CR`, `NL`. -/
  onlcr : Bool
  /-- R43: `XON` and `XOFF` are flow-control bytes. -/
  flow : Bool
  /-- R44: a refused byte rings the bell. -/
  bell : Bool
  /-- R45: the erase character. -/
  eraseCode : Byte
  /-- R46: the kill character. -/
  killCode : Byte
  /-- R47: the word-erase character. -/
  weraseCode : Byte
  deriving DecidableEq, Repr

/-- The parameters of R6, `cfg` among them. They are constant from `RESET` on (R270). `BYTE_W`, `LRC_W` and `CTL_XOR` are
fixed and are no fields. -/
structure Params where
  /-- `N_RX`, the capacity of `RXBUF` in slots. -/
  nRx : Nat
  /-- `N_TX`, the capacity of `TXBUF` in slots. -/
  nTx : Nat
  /-- `EB_W`, the width of `EraseBacklog` in bits. -/
  ebW : Nat
  /-- `XON`, the flow-control resume code. -/
  xon : Byte
  /-- `XOFF`, the flow-control pause code. -/
  xoff : Byte
  /-- `CR`, carriage return. -/
  cr : Byte
  /-- `NL`, newline; the source also calls it LF (R10). -/
  nl : Byte
  /-- `BS`, the literal backspace, also the backspace of the erase replay. -/
  bs : Byte
  /-- `SP`, space. -/
  sp : Byte
  /-- `BEL`, bell. -/
  bel : Byte
  /-- `CARET`, the character the source prints as a circumflex. -/
  caret : Byte
  /-- `TX_UNPUT`: fixed at false, a launch with true is refused (R169). -/
  txUnput : Bool
  /-- The LineDiscipline Config (R30). -/
  cfg : LineConfig
  deriving DecidableEq, Repr

/-- Which of the two ring buffers (R60: the two storages are separate spaces). -/
inductive BufId where
  /-- `RXBUF` (R23). -/
  | rx
  /-- `TXBUF` (R24). -/
  | tx
  deriving DecidableEq, Repr

/-- The byte a slot of a buffer's storage holds while nothing has written it (R64, U4: any value). A free value: nothing
constrains it. Log 6, DESIGN CHOICE. -/
opaque Config.unwrittenByte : BufId → Nat → Byte

/-- `CTL_XOR`, the value XORed into a control byte for its echo: fixed at 0x40 (R6). -/
def ctlXor : Byte := 0x40

/-- The `cfg` of profile T1 (`95_test_vectors.md`). -/
def LineConfig.t1 : LineConfig where
  canonical := true
  echo := true
  echoe := true
  echok := true
  echoctl := true
  echonl := false
  icrnl := true
  inlcr := false
  igncr := false
  istrip := false
  ocrnl := false
  onlcr := true
  flow := true
  bell := true
  eraseCode := 0x7F
  killCode := 0x15
  weraseCode := 0x17

/-- Profile T1 with the default parameters of R6 and `N_RX = N_TX = 16`, `EB_W = 8` (`95_test_vectors.md`). The codes are
the spec's defaults from general knowledge (D5). Log 4. -/
def Params.t1 : Params where
  nRx := 16
  nTx := 16
  ebW := 8
  xon := 0x11
  xoff := 0x13
  cr := 0x0D
  nl := 0x0A
  bs := 0x08
  sp := 0x20
  bel := 0x07
  caret := 0x5E
  txUnput := false
  cfg := LineConfig.t1

/-- The profile under which the words of `opcode_table.json` read as their rows: T1 with `igncr` set too, since a row of
format RXB applies only if its `cond` holds (R95) and the row RX.IGNCR has the cond `cfg.igncr`. Log 13. -/
def Params.table : Params :=
  { Params.t1 with cfg := { LineConfig.t1 with igncr := true } }

end Sys2Proof
end

