-- ==== Sys2Proof/Syntax.lean ====
section
/-!
DEFINITION. The syntax: one constructor of `Instr` for each of the 20 rows of spec/opcode_table.json, in its three formats
(R95). EV: the five events of R81. RXB: the nine rows of the received-byte decode (R83), each with the raw byte received.
TXK: the six branches of the transmit-engine decode (R94). And the reasons an event word is rejected (R82).
-/

namespace Sys2Proof

/-- The instructions: the events, and the rows their second-level decodes select. Log 12. -/
inductive Instr where
  /-- `RESET`, event kind 0 (R81, R250). -/
  | reset
  /-- `RX v`, event kind 1: the peripheral delivers byte `v` (R130). -/
  | rx (v : Byte)
  /-- `TXRDY`, event kind 2: a firing of the transmit engine (R188). -/
  | txrdy
  /-- `RD`, event kind 3: `read_nonblocking()` (R201). -/
  | rd
  /-- `WR w`, event kind 4: `write_nonblocking(w)` (R202). -/
  | wr (w : Byte)
  /-- `RX.XOFF` (R131), raw byte `v`. -/
  | rxXoff (v : Byte)
  /-- `RX.XON` (R132), raw byte `v`. -/
  | rxXon (v : Byte)
  /-- `RX.IGNCR` (R135), raw byte `v`. -/
  | rxIgncr (v : Byte)
  /-- `RX.ERASE` (R138), selected by `cfg.erase_code`, raw byte `v`. -/
  | rxErase (v : Byte)
  /-- `RX.ERASE_BS` (R138), selected by the literal backspace, raw byte `v`. -/
  | rxEraseBs (v : Byte)
  /-- `RX.KILL` (R139), raw byte `v`. -/
  | rxKill (v : Byte)
  /-- `RX.WERASE` (R140), raw byte `v`. -/
  | rxWerase (v : Byte)
  /-- `RX.NL` (R141 to R143), raw byte `v`. -/
  | rxNl (v : Byte)
  /-- `RX.ORD` (R141 to R143), raw byte `v`. -/
  | rxOrd (v : Byte)
  /-- `TX.HALT` (R181). -/
  | txHalt
  /-- `TX.LF` (R182). -/
  | txLf
  /-- `TX.ERASE0` (R183, R184). -/
  | txErase0
  /-- `TX.ERASEn` (R184). -/
  | txErasen
  /-- `TX.DATA` (R185, R186). -/
  | txData
  /-- `TX.IDLE` (R187). -/
  | txIdle
  deriving DecidableEq, Repr

/-- Why an event word is no event (R82). -/
inductive Reject where
  /-- Kinds 5, 6 and 7 are reserved. -/
  | reservedKind
  /-- A word of kind 0, 2 or 3 whose data is not 0 is reserved. -/
  | reservedData
  deriving DecidableEq, Repr

/-- A word of one of the three formats of spec/opcode_table.json (R95). -/
inductive Code where
  /-- Format EV: the 11-bit event word of R80. -/
  | event (w : EventWord)
  /-- Format RXB: a received byte, as the peripheral delivers it (the `v` of R83). -/
  | rxByte (v : Byte)
  /-- Format TXK: the transmit key of R95. -/
  | txKey (k : TxKey)
  deriving DecidableEq, Repr

end Sys2Proof
end

