-- ==== Sys2Proof/Machine/State.lean ====
section
/-!
DEFINITION. The state of the core, R20's table and R52's bookkeeping (`CoreState`), beside the environment it runs in
(`Environment`; logs 2, 3, 14 and 20); the reasons a step stops; the state right after reset (R250).
-/

namespace Sys2Proof.Machine

/-- `EraseState` (R28), the sub-state of the three-byte erase replay. -/
inductive EraseState where
  /-- No replay in progress. -/
  | idle
  /-- The first `BS` is next. Entered and left within one firing (R28). -/
  | sendBackspace1
  /-- `SP` is next. -/
  | sendSpace
  /-- The second `BS` is next. -/
  | sendBackspace2
  deriving DecidableEq, Repr

/-- The result of an operation (R86). -/
inductive Res where
  /-- A `put` or `WR` stored its byte. -/
  | ok
  /-- A `get`, `unput` or `RD` yields the byte. -/
  | byte (v : Byte)
  /-- The source's BufferFull (R221). -/
  | full
  /-- The source's BufferEmpty (R222). -/
  | empty
  deriving DecidableEq, Repr

/-- The stop strategies of the erase coordinator (R85). -/
inductive Stop where
  /-- Erase to the start of the line. -/
  | none
  /-- Stop at a space. -/
  | atSpace
  /-- Stop at anything but a space. -/
  | atNonSpace
  deriving DecidableEq, Repr

/-- A ring buffer (R23 to R25): the get cursor `head`, the put cursor `tail`, and the storage as pairs of a slot index and
its byte, slot indices strictly rising; a slot not listed has never been written. The capacity is a parameter (R6). -/
structure Ring where
  /-- The get cursor. -/
  head : Nat
  /-- The put cursor. -/
  tail : Nat
  /-- The storage. -/
  storage : List Host.Cell
  deriving DecidableEq, Repr

/-- The state of the core: R20's table and R52's bookkeeping, and nothing else. Every procedure and engine of the core reads and
writes a `CoreState` alone. -/
structure CoreState where
  /-- `cfg` (R30), with the constants of R6 that are given beside it and size the other rows; constant from `RESET` on
  (R270). -/
  par : Params
  /-- `RXBUF.storage`, `RXBUF.head`, `RXBUF.tail` (R23). -/
  rxbuf : Ring
  /-- `TXBUF.storage`, `TXBUF.head`, `TXBUF.tail` (R24). -/
  txbuf : Ring
  /-- `LineReadyCounter` (R26). -/
  lineReadyCounter : BitVec 8
  /-- `EraseBacklog` (R27), below 2^EB_W. -/
  eraseBacklog : Nat
  /-- `EraseState` (R28). -/
  eraseState : EraseState
  /-- `TXIE`, the transmit-interrupt enable (R29). -/
  txie : Bool
  /-- `HaltOutput` (R48). -/
  haltOutput : Bool
  /-- `PendingLineFeed` (R49). -/
  pendingLineFeed : Bool
  /-- `OUT`, the bytes sent, oldest first (R52). -/
  out : List Byte
  /-- `RDLOG`, the results of `RD`, oldest first (R52). -/
  rdlog : List Res
  deriving DecidableEq, Repr

/-- What surrounds the core and is no state of it (R51): what the platform and the host hold. No procedure or engine of the core
reads it; the port is read by `RESET` (R250), the trace by the step, and an event has a transition only in a started core
(R257). Log 20. -/
structure Environment where
  /-- The results of `WR` the host has received, oldest first: the host write port's result (R202, R237). Log 14. -/
  wrlog : List Res
  /-- Whether a well-formed `RESET` has happened, so that a state of the core is defined (R256, R257). Log 3. -/
  started : Bool
  /-- The configuration and capacities presented at the reset/init port (R237, R250). Log 3. -/
  initParams : Params
  /-- The event words the environment has yet to deliver, next first (R51, R91). Log 2. -/
  trace : List EventWord
  deriving DecidableEq, Repr

/-- A core in its environment: what the host's interface runs. The first part is the state R20 gives the core; the second is
not the core's. -/
structure State extends core : CoreState, env : Environment
  deriving DecidableEq, Repr

/-- Why the machine stops with a fault. -/
inductive Fault where
  /-- `BacklogAdd` increments `EraseBacklog` at 2^EB_W - 1: the spec gives the wrapped value but asks the model to fault
  there and draw no conclusion (R27, R162 (c), R224, U2). Safe: nothing is claimed of the machine past it. -/
  | eraseBacklogOverflow
  deriving DecidableEq, Repr

/-- Why a step is refused: the spec has no transition there. -/
inductive Refusal where
  /-- An arm of `exec` without a meaning. No arm answers it. Safe. -/
  | notModelled (mnemonic : String)
  /-- The step finds a reserved event word in the trace: it is not an event and has no transition (R82, U9). Safe. -/
  | reservedEventWord (why : Reject)
  /-- An event other than `RESET` before a well-formed `RESET` (R256, R257, U11). Safe. -/
  | notStarted
  /-- A firing while `TXIE == 0`: not enabled, no transition (R180, R82, U10). Safe. -/
  | txrdyNotEnabled
  /-- A row of format RXB or TXK where the decode of R83 or R94 does not select it: no event takes that branch there.
  Safe. Log 12. -/
  | rowNotSelected
  /-- `RESET` with a configuration that is not `ConfigValid` (R223, R256, U7). Safe. -/
  | malformedConfiguration
  /-- `RESET` with `TX_UNPUT = true` (R169, U8). Safe. -/
  | txUnputUnsupported
  /-- `RESET` with `EB_W = 0`, outside the range of R6. Safe. Log 11. -/
  | backlogWidthZero
  /-- `RESET` of a started core that would change `cfg`, a capacity or a code (R258, R270, U12, U13). Safe. -/
  | configurationChange
  deriving DecidableEq, Repr

/-- An empty ring buffer nothing has been written to, both cursors 0 (R250). -/
def emptyRing : Ring where
  head := 0
  tail := 0
  storage := []

/-- The core with every register at its reset value (R250) under the given parameters, nothing written to the storages. -/
def CoreState.atReset (p : Params) : CoreState where
  par := p
  rxbuf := emptyRing
  txbuf := emptyRing
  lineReadyCounter := 0
  eraseBacklog := 0
  eraseState := .idle
  txie := false
  haltOutput := false
  pendingLineFeed := false
  out := []
  rdlog := []

/-- A core at its reset values whose port presents its own parameters, with no event pending. -/
def State.atReset (p : Params) (started : Bool) : State where
  core := CoreState.atReset p
  wrlog := []
  started := started
  initParams := p
  trace := []

/-- The core before its first `RESET`, with the parameters its foreground will present (R257). -/
def State.powerUp (p : Params) : State := State.atReset p false

/-- The machine right after reset (R250), launched with profile T1 (log 4). -/
def State.reset : State := State.atReset Params.t1 true

end Sys2Proof.Machine
end

