-- ==== Sys2Proof/Machine/Flags.lean ====
section
/-!
DEFINITION. The registers, each with its one writer, and the three flags `TXIE` (R29), `HaltOutput` (R48) and
`PendingLineFeed` (R49). There are no condition codes (R54): a flag changes only by the writers below. At the end the writers
of what surrounds the core.
-/

namespace Sys2Proof.Machine

/-- `SetTxIrq(e)` (R9, R29): `TXIE <- e`. -/
def setTxIrq (e : Bool) (s : CoreState) : CoreState := { s with txie := e }

/-- `HaltOutput <- h` (R48). -/
def setHaltOutput (h : Bool) (s : CoreState) : CoreState := { s with haltOutput := h }

/-- `PendingLineFeed <- f` (R49). -/
def setPendingLineFeed (f : Bool) (s : CoreState) : CoreState := { s with pendingLineFeed := f }

/-- `EraseState <- e` (R28). -/
def setEraseState (e : EraseState) (s : CoreState) : CoreState := { s with eraseState := e }

/-- `EraseBacklog <- n` (R27). -/
def setEraseBacklog (n : Nat) (s : CoreState) : CoreState := { s with eraseBacklog := n }

/-- `LineReadyCounter <- n` (R26); its arithmetic is modulo 2^8 (R8). -/
def setLineReadyCounter (n : BitVec 8) (s : CoreState) : CoreState := { s with lineReadyCounter := n }

/-- `RXBUF` becomes `r` (R23). -/
def setRxbuf (r : Ring) (s : CoreState) : CoreState := { s with rxbuf := r }

/-- `TXBUF` becomes `r` (R24). -/
def setTxbuf (r : Ring) (s : CoreState) : CoreState := { s with txbuf := r }

/-- `Send(v)` (R9): the byte goes to the peripheral and is appended to `OUT` (R52). -/
def send (v : Byte) (s : CoreState) : CoreState := { s with out := s.out ++ [v] }

/-- The result of an `RD` is appended to `RDLOG` (R52). -/
def logRd (r : Res) (s : CoreState) : CoreState := { s with rdlog := s.rdlog ++ [r] }

/-! ### The environment -/

/-- The core of `s` becomes `c`; the environment stays. -/
def withCore (c : CoreState) (s : State) : State := { s with core := c }

/-- The result of a `WR` is given to the host (R202, R237). -/
def logWr (r : Res) (s : State) : State := { s with wrlog := s.wrlog ++ [r] }

/-- The environment's remaining event words become `ws`. -/
def setTrace (ws : List EventWord) (s : State) : State := { s with trace := ws }

end Sys2Proof.Machine
end

