-- ==== Sys2Proof/Decode.lean ====
section
/-!
DEFINITION. The three decodes of R95 and the encoder: the event word (R80 to R82), the received byte (R83), the transmit key
(R94, R95), all total, reserved event words rejected by name. Also the packed form of `cfg` (R90), and the host's reading of
one word of spec/opcode_table.json.
-/

namespace Sys2Proof

/-! ### The received-byte decode (R83) -/

/-- Step 2 (R134), the value `b1` of R83: bit 7 cleared if `cfg.istrip`. -/
def stripByte (p : Params) (v : Byte) : Byte :=
  if p.cfg.istrip then v &&& 0x7F else v

/-- Step 4 (R136): `CR` becomes `NL` if `icrnl`, otherwise `NL` becomes `CR` if `inlcr`; one choice per byte. -/
def mapInput (p : Params) (b : Byte) : Byte :=
  if p.cfg.icrnl ∧ b = p.cr then p.nl
  else if p.cfg.inlcr ∧ b = p.nl then p.cr
  else b

/-- The value `b2` of R83: what steps 5 and 6 see of a received byte. -/
def receivedByte (p : Params) (v : Byte) : Byte :=
  mapInput p (stripByte p v)

/-- R83, R95: the row a received byte selects, the first that applies in the table's order. -/
def decodeRxByte (p : Params) (v : Byte) : Instr :=
  if p.cfg.flow ∧ v = p.xoff then .rxXoff v
  else if p.cfg.flow ∧ v = p.xon then .rxXon v
  else if p.cfg.igncr ∧ stripByte p v = p.cr then .rxIgncr v
  else if p.cfg.canonical ∧ receivedByte p v = p.cfg.eraseCode then .rxErase v
  else if p.cfg.canonical ∧ receivedByte p v = p.bs then .rxEraseBs v
  else if p.cfg.canonical ∧ receivedByte p v = p.cfg.killCode then .rxKill v
  else if p.cfg.canonical ∧ receivedByte p v = p.cfg.weraseCode then .rxWerase v
  else if receivedByte p v = p.nl then .rxNl v
  else .rxOrd v

/-! ### The transmit-engine decode (R94, R95) -/

/-- The rows of format TXK: mask, match, row, in the table's order. -/
def txkRows : List (TxKey × TxKey × Instr) :=
  [ (0x10, 0x10, .txHalt),
    (0x18, 0x08, .txLf),
    (0x1E, 0x02, .txErase0),
    (0x1C, 0x04, .txErasen),
    (0x1F, 0x01, .txData),
    (0x1F, 0x00, .txIdle) ]

/-- The instructions of the rows of format TXK that match the key `k` under their masks. -/
def txkMatches (k : TxKey) : List Instr :=
  (txkRows.filter fun row => k &&& row.1 == row.2.1).map fun row => row.2.2

/-- R94: the branch a key selects, first match wins. The six rows partition the 32 keys (R95), so the default is never
taken. -/
def decodeTxKey (k : TxKey) : Instr :=
  (txkMatches k).headD .txIdle

/-! ### The event word (R80 to R82) -/

/-- `EV[10:8]`. -/
def eventKind (w : EventWord) : BitVec 3 := w.extractLsb' 8 3

/-- `EV[7:0]`. -/
def eventData (w : EventWord) : Byte := w.extractLsb' 0 8

/-- The event word of a kind and its data, `EV = kind[2:0] data[7:0]`. -/
def eventWord (kind : BitVec 3) (data : Byte) : EventWord := kind ++ data

/-- A kind without operand: its data must be 0 (R80, R82). -/
def noOperand (data : Byte) (i : Instr) : Except Reject Instr :=
  if data = 0 then .ok i else .error .reservedData

/-- R81, R82: the event a word stands for, or why it stands for none. -/
def decodeEvent (w : EventWord) : Except Reject Instr :=
  match (eventKind w).toNat with
  | 0 => noOperand (eventData w) .reset
  | 1 => .ok (.rx (eventData w))
  | 2 => noOperand (eventData w) .txrdy
  | 3 => noOperand (eventData w) .rd
  | 4 => .ok (.wr (eventData w))
  | _ => .error .reservedKind

/-! ### The whole decoder and encoder -/

/-- The decoder: the instruction a word of any of the three formats stands for, under the parameters `p`. -/
def decode (p : Params) : Code → Except Reject Instr
  | .event w => decodeEvent w
  | .rxByte v => .ok (decodeRxByte p v)
  | .txKey k => .ok (decodeTxKey k)

/-- The encoder: the word of an instruction in its own format. A row of format TXK is written with its unmasked bits 0. -/
def encode : Instr → Code
  | .reset => .event (eventWord 0 0)
  | .rx v => .event (eventWord 1 v)
  | .txrdy => .event (eventWord 2 0)
  | .rd => .event (eventWord 3 0)
  | .wr w => .event (eventWord 4 w)
  | .rxXoff v => .rxByte v
  | .rxXon v => .rxByte v
  | .rxIgncr v => .rxByte v
  | .rxErase v => .rxByte v
  | .rxEraseBs v => .rxByte v
  | .rxKill v => .rxByte v
  | .rxWerase v => .rxByte v
  | .rxNl v => .rxByte v
  | .rxOrd v => .rxByte v
  | .txHalt => .txKey 0x10
  | .txLf => .txKey 0x08
  | .txErase0 => .txKey 0x02
  | .txErasen => .txKey 0x04
  | .txData => .txKey 0x01
  | .txIdle => .txKey 0x00

/-! ### The configuration word (R90) -/

/-- The flags of `cfg` in the order of `CFGW[13:0]`, bit 0 first. -/
def LineConfig.flags (c : LineConfig) : List Bool :=
  [c.canonical, c.echo, c.echoe, c.echok, c.echoctl, c.echonl, c.icrnl, c.inlcr, c.igncr, c.istrip, c.ocrnl, c.onlcr,
    c.flow, c.bell]

/-- The number whose bits, lowest first, are `bs`. -/
def bitsToNat : List Bool → Nat
  | [] => 0
  | b :: bs => b.toNat + 2 * bitsToNat bs

/-- R90: `cfg` packed into 38 bits. -/
def LineConfig.toWord (c : LineConfig) : ConfigWord :=
  c.weraseCode ++ c.killCode ++ c.eraseCode ++ BitVec.ofNat 14 (bitsToNat c.flags)

/-- R90: the `cfg` a 38-bit word packs. -/
def LineConfig.ofWord (w : ConfigWord) : LineConfig where
  canonical := w.getLsbD 0
  echo := w.getLsbD 1
  echoe := w.getLsbD 2
  echok := w.getLsbD 3
  echoctl := w.getLsbD 4
  echonl := w.getLsbD 5
  icrnl := w.getLsbD 6
  inlcr := w.getLsbD 7
  igncr := w.getLsbD 8
  istrip := w.getLsbD 9
  ocrnl := w.getLsbD 10
  onlcr := w.getLsbD 11
  flow := w.getLsbD 12
  bell := w.getLsbD 13
  eraseCode := w.extractLsb' 14 8
  killCode := w.extractLsb' 22 8
  weraseCode := w.extractLsb' 30 8

/-! ### One word of spec/opcode_table.json -/

/-- An instruction read, or nothing where the decoder rejects. -/
def exceptToOption (r : Except Reject Instr) : Option Instr :=
  match r with
  | .ok i => some i
  | .error _ => none

/-- Whether a row is `RX.ORD`, the row of format RXB that leaves every bit open. -/
def isOrd : Instr → Bool
  | .rxOrd _ => true
  | _ => false

/-- A one-byte word of the table. The formats RXB and TXK share these widths and a number does not say which it is, so: a
byte that selects a row of format RXB with a fixed match is that row, any other 5-bit number is a transmit key, and what is
left is `RX.ORD`. Log 13. -/
def decodeTableByte (b : Byte) : Instr :=
  let row := decodeRxByte Params.table b
  if !isOrd row then row
  else if b.toNat < 32 then decodeTxKey (b.setWidth 5)
  else row

/-- The instruction the decoder reads from a word of spec/opcode_table.json: an event word where the table gives 11 bits
(two bytes; bits above the event word must be 0), a received byte or a transmit key where it gives at most 8. -/
def decodeTableWord (nbits w : Nat) : Option Instr :=
  if nbits = 0 then some (decodeRxByte Params.table (BitVec.ofNat 8 w))
  else if nbits ≤ 5 then some (decodeTxKey (BitVec.ofNat 5 w))
  else if nbits ≤ 8 then some (decodeTableByte (BitVec.ofNat 8 w))
  else if w < 2048 then exceptToOption (decodeEvent (BitVec.ofNat 11 w))
  else none

end Sys2Proof
end

