-- ==== Sys2Proof/Machine/Operands.lean ====
section
/-!
DEFINITION. The character predicates (R11), the stop strategies (R85), the transmit key formed from the state (R95), and the
encodings of `EraseState`, of a stop strategy and of a result (R84, R85, R86).
-/

namespace Sys2Proof.Machine

/-- `IsCtl(v)` (R11): below 0x20, or 0x7F. -/
def isCtl (v : Byte) : Bool := decide (v.toNat < 0x20) || v == 0x7F

/-- `IsSpace(v)` (R11): the byte `SP` and nothing else. -/
def isSpace (p : Params) (v : Byte) : Bool := v == p.sp

/-- `Stops(stop, c)` (R85). -/
def stops (p : Params) (stop : Stop) (c : Byte) : Bool :=
  match stop with
  | .none => false
  | .atSpace => isSpace p c
  | .atNonSpace => !isSpace p c

/-- R84: `EraseState` in two bits. -/
def eraseStateBits : EraseState → BitVec 2
  | .idle => 0
  | .sendBackspace1 => 1
  | .sendSpace => 2
  | .sendBackspace2 => 3

/-- R84: all four values are legal. -/
def eraseStateOfBits (b : BitVec 2) : EraseState :=
  match b.toNat with
  | 0 => .idle
  | 1 => .sendBackspace1
  | 2 => .sendSpace
  | _ => .sendBackspace2

/-- R85: a stop strategy in two bits; the value 3 does not occur. -/
def stopBits : Stop → BitVec 2
  | .none => 0
  | .atSpace => 1
  | .atNonSpace => 2

/-- R86: `RES[9:8]`. -/
def resultTag : Res → BitVec 2
  | .ok => 0
  | .byte _ => 1
  | .full => 2
  | .empty => 3

/-- R86: `RES[7:0]`. -/
def resultData : Res → Byte
  | .byte v => v
  | .ok => 0
  | .full => 0
  | .empty => 0

/-- R86: the 10-bit result word. -/
def resultWord (r : Res) : ResultWord := resultTag r ++ resultData r

/-- The number of columns a character takes in the erase accounting (R162): two for a control character under `echoctl`. -/
def columns (p : Params) (c : Byte) : Nat :=
  if p.cfg.echoctl ∧ isCtl c then 2 else 1

/-- The visual flag of an erase (R162): `echok` for kill, `echoe` otherwise. -/
def visualFlag (p : Params) (isKill : Bool) : Bool :=
  if isKill then p.cfg.echok else p.cfg.echoe

/-- The transmit key of R95: `HaltOutput`, `PendingLineFeed`, `EraseState != Idle`, `EraseBacklog > 0`,
`not TXBUF.is_empty`, from bit 4 down to bit 0. -/
def txKeyOf (halt plf replay backlog data : Bool) : TxKey :=
  BitVec.ofNat 5 (16 * halt.toNat + 8 * plf.toNat + 4 * replay.toNat + 2 * backlog.toNat + data.toNat)

/-- The transmit key at the start of a firing (R95). -/
def txKey (s : CoreState) : TxKey :=
  txKeyOf s.haltOutput s.pendingLineFeed (s.eraseState != .idle) (decide (0 < s.eraseBacklog))
    (s.txbuf.head != s.txbuf.tail)

end Sys2Proof.Machine
end

