-- ==== Sys2Proof/Machine/Ops.lean ====
section
/-!
DEFINITION. The shared operations: storage access (R60 to R64), the ring buffer (R110 to R115), the procedures `TxEnqueue`
(R144), `Echo` (R145), `BacklogAdd` (R162), `RetractOne` (R160), `RetractUntil` (R163), the status signals (R50), the effect
of `RESET` on the registers (R250) with `ConfigValid` (R256), the guards an event stands under, and the fetch of the next
event word. The core takes no exception and has no return from one (R220, R231, R232): errors are results.
-/

namespace Sys2Proof.Machine

/-! ### Storage -/

/-- What an access of a storage finds in a slot: the byte last written, or nothing where nothing was written (R63, R64). -/
def memRead (m : List Host.Cell) (i : Nat) : Option Byte :=
  match m with
  | [] => none
  | (j, v) :: rest => if j = i then some v else memRead rest i

/-- `MemWrite` of a byte to a slot (R63), keeping the slots in rising order. -/
def memWrite (m : List Host.Cell) (i : Nat) (v : Byte) : List Host.Cell :=
  match m with
  | [] => [(i, v)]
  | (j, w) :: rest =>
    if i < j then (i, v) :: (j, w) :: rest
    else if i = j then (i, v) :: rest
    else (j, w) :: memWrite rest i v

/-- Every listed slot index is at least `lo` and they strictly rise. -/
def risingFrom (lo : Nat) (m : List Host.Cell) : Bool :=
  match m with
  | [] => true
  | (i, _) :: rest => decide (lo ≤ i) && risingFrom (i + 1) rest

/-- The canonical form of a storage: slot indices strictly rising. A slot not listed reads as no value, so no entry can equal
what an unlisted slot reads as. -/
abbrev Memory.wf (m : List Host.Cell) : Bool := risingFrom 0 m

/-- Every listed slot index is below the capacity `n` (R60: slots 0..N-1 are all there is). -/
def slotsBelow (n : Nat) (m : List Host.Cell) : Bool := m.all fun c => decide (c.1 < n)

/-! ### The ring buffer; `n` is its capacity -/

/-- `c + 1` modulo the capacity (R62). -/
def cursorNext (n c : Nat) : Nat := (c + 1) % n

/-- `c - 1` modulo the capacity (R62). -/
def cursorPrev (n c : Nat) : Nat := (c + (n - 1)) % n

/-- `MemRead(B, c, 1)` (R63): the byte of the slot cursor `c` points at. A slot nothing has written holds an unspecified byte
(R64), the free value. A cursor has log2(N) bits (R23), so the slot is `c` modulo the capacity. Logs 6 and 7. -/
def slotByte (id : BufId) (n : Nat) (r : Ring) (c : Nat) : Byte :=
  (memRead r.storage (c % n)).getD (Config.unwrittenByte id (c % n))

/-- `B.is_empty` (R113). -/
def ringIsEmpty (r : Ring) : Bool := r.head == r.tail

/-- `B.is_full` (R114). -/
def ringIsFull (n : Nat) (r : Ring) : Bool := cursorNext n r.tail == r.head

/-- `B.count` (R115): `(tail - head) mod N`. -/
def ringCount (n : Nat) (r : Ring) : Nat := (r.tail + n - r.head) % n

/-- `B.free` (R115). -/
def ringFree (n : Nat) (r : Ring) : Nat := (n - 1) - ringCount n r

/-- The resident bytes, oldest first (R25). -/
def resident (id : BufId) (n : Nat) (r : Ring) : List Byte :=
  (List.range (ringCount n r)).map fun i => slotByte id n r (r.head + i)

/-- `B.put(v)` (R110). -/
def ringPut (n : Nat) (r : Ring) (v : Byte) : Res × Ring :=
  if ringIsFull n r then (.full, r)
  else (.ok, { r with storage := memWrite r.storage (r.tail % n) v, tail := cursorNext n r.tail })

/-- `B.get()` (R111). -/
def ringGet (id : BufId) (n : Nat) (r : Ring) : Res × Ring :=
  if ringIsEmpty r then (.empty, r)
  else (.byte (slotByte id n r r.head), { r with head := cursorNext n r.head })

/-- `B.unput()` (R112). -/
def ringUnput (id : BufId) (n : Nat) (r : Ring) : Res × Ring :=
  if ringIsEmpty r then (.empty, r)
  else (.byte (slotByte id n r (cursorPrev n r.tail)), { r with tail := cursorPrev n r.tail })

/-! ### The two buffers in the state -/

/-- The bytes resident in `RXBUF`, oldest first. -/
def rxResident (s : CoreState) : List Byte := resident .rx s.par.nRx s.rxbuf

/-- The bytes resident in `TXBUF`, oldest first. -/
def txResident (s : CoreState) : List Byte := resident .tx s.par.nTx s.txbuf

/-- `RXBUF.put(v)` with its result ignored. -/
def rxPut (v : Byte) (s : CoreState) : CoreState := setRxbuf (ringPut s.par.nRx s.rxbuf v).2 s

/-- The byte slot `i` of `RXBUF` holds. -/
def rxSlot (s : CoreState) (i : Nat) : Byte := slotByte .rx s.par.nRx s.rxbuf i

/-- The byte slot `i` of `TXBUF` holds. -/
def txSlot (s : CoreState) (i : Nat) : Byte := slotByte .tx s.par.nTx s.txbuf i

/-- The status signal `rd_ready` (R50), which is the read gate (R200). -/
def rdReady (s : CoreState) : Bool :=
  if s.par.cfg.canonical then decide (0 < s.lineReadyCounter.toNat) else !ringIsEmpty s.rxbuf

/-- The status signal `tx_full` (R50). -/
def txFull (s : CoreState) : Bool := ringIsFull s.par.nTx s.txbuf

/-! ### Procedures of the receive engine -/

/-- `TxEnqueue(w)` (R144): `TXBUF.put(w)`, then `SetTxIrq(1)` whether or not the byte was stored. -/
def txEnqueue (w : Byte) (s : CoreState) : Res × CoreState :=
  ((ringPut s.par.nTx s.txbuf w).1, setTxIrq true (setTxbuf (ringPut s.par.nTx s.txbuf w).2 s))

/-- `TxEnqueue(w)` by the receive engine, which drops the result (R144). -/
def enqueue (w : Byte) (s : CoreState) : CoreState := (txEnqueue w s).2

/-- `Echo(b)` (R145). -/
def echo (b : Byte) (s : CoreState) : CoreState :=
  if b = s.par.nl then
    if s.par.cfg.echo ∨ s.par.cfg.echonl then enqueue s.par.nl s else s
  else if !s.par.cfg.echo then s
  else if s.par.cfg.echoctl ∧ isCtl b then enqueue (b ^^^ ctlXor) (enqueue s.par.caret s)
  else enqueue b s

/-! ### The erase coordinator -/

/-- `EraseBacklog <- EraseBacklog + 1` (R162), a fault at 2^EB_W - 1 (R27). Log 8. -/
def backlogInc (s : CoreState) : Except Fault CoreState :=
  if 2 ^ s.par.ebW ≤ s.eraseBacklog + 1 then .error .eraseBacklogOverflow
  else .ok (setEraseBacklog (s.eraseBacklog + 1) s)

/-- `k` increments one after the other. -/
def backlogIncs (k : Nat) (s : CoreState) : Except Fault CoreState :=
  match k with
  | 0 => .ok s
  | k + 1 =>
    match backlogInc s with
    | .error f => .error f
    | .ok t => backlogIncs k t

/-- `BacklogAdd(c, is_kill)` (R162): one increment, a second for a control character under `echoctl`, then `SetTxIrq(1)`;
nothing where the visual flag is off. -/
def backlogAdd (c : Byte) (isKill : Bool) (s : CoreState) : Except Fault CoreState :=
  if visualFlag s.par isKill then
    match backlogIncs (columns s.par c) s with
    | .error f => .error f
    | .ok t => .ok (setTxIrq true t)
  else .ok s

/-- `RetractOne(stop, is_kill)` (R160, R161): whether a character was erased, and the state after. -/
def retractOne (stop : Stop) (isKill : Bool) (s : CoreState) : Except Fault (Bool × CoreState) :=
  match ringUnput .rx s.par.nRx s.rxbuf with
  | (.byte c, r) =>
    if c = s.par.nl ∨ stops s.par stop c then .ok (false, rxPut c (setRxbuf r s))
    else
      match backlogAdd c isKill (setRxbuf r s) with
      | .error f => .error f
      | .ok t => .ok (true, t)
  | (_, _) => .ok (false, s)

/-- `RetractUntil(stop, is_kill)` (R163) in at most `fuel` calls of `RetractOne`: the number of characters erased, and the
state after. -/
def retractFuel (fuel : Nat) (stop : Stop) (isKill : Bool) (s : CoreState) : Except Fault (Nat × CoreState) :=
  match fuel with
  | 0 => .ok (0, s)
  | fuel + 1 =>
    match retractOne stop isKill s with
    | .error f => .error f
    | .ok (false, t) => .ok (0, t)
    | .ok (true, t) =>
      match retractFuel fuel stop isKill t with
      | .error f => .error f
      | .ok (k, u) => .ok (k + 1, u)

/-- `RetractUntil(stop, is_kill)` (R163): it makes at most `RXBUF.count + 1` calls (R165). -/
def retractUntil (stop : Stop) (isKill : Bool) (s : CoreState) : Except Fault (Nat × CoreState) :=
  retractFuel (ringCount s.par.nRx s.rxbuf + 1) stop isKill s

/-! ### RESET -/

/-- A capacity: a power of two from 2 to 256 (R6, R7). -/
def isCapacity (n : Nat) : Bool := (List.range 8).any fun k => n == 2 ^ (k + 1)

/-- `ConfigValid` (R256, R7). -/
def configValid (p : Params) : Bool :=
  isCapacity p.nRx && isCapacity p.nTx && p.xon != p.xoff && p.cr != p.nl

/-- The parameters a core can run with: `ConfigValid`, `TX_UNPUT` false (R169), `EB_W` at least 1 (R6). -/
def launchable (p : Params) : Bool := configValid p && !p.txUnput && decide (1 ≤ p.ebW)

/-- The effect of a `RESET` with the parameters `p` (R250): every register takes its reset value, the storages are left as
they are, the bookkeeping sequences are empty. -/
def resetRegisters (p : Params) (s : CoreState) : CoreState where
  par := p
  rxbuf := { s.rxbuf with head := 0, tail := 0 }
  txbuf := { s.txbuf with head := 0, tail := 0 }
  lineReadyCounter := 0
  eraseBacklog := 0
  eraseState := .idle
  txie := false
  haltOutput := false
  pendingLineFeed := false
  out := []
  rdlog := []

/-- A launch with the parameters the port presents (R250): the core reset and started, the host's record of `WR` results
emptied. The port and the trace are the environment's and stay. -/
def launch (s : State) : State :=
  { s with core := resetRegisters s.initParams s.core, started := true, wrlog := [] }

/-! ### Guards and outcomes -/

/-- The outcome of a step of the core. -/
abbrev Result := Host.Outcome State Fault Refusal

/-- An event other than `RESET` has a transition only once the core is started (R256, R257). -/
def whenStarted (s : State) (r : Result) : Result :=
  if s.started then r else .refused .notStarted

/-- A firing has a transition only while `TXIE == 1` (R180). -/
def whenFiring (s : State) (r : Result) : Result :=
  whenStarted s (if s.txie then r else .refused .txrdyNotEnabled)

/-- A row of format RXB applies where the received-byte decode selects it (R83, R95). Log 12. -/
def whenRxRow (row : Instr) (v : Byte) (s : State) (r : Result) : Result :=
  whenStarted s (if decodeRxByte s.par v = row then r else .refused .rowNotSelected)

/-- A row of format TXK applies where the key of the state selects it (R94, R95). Log 12. -/
def whenTxRow (row : Instr) (s : State) (r : Result) : Result :=
  whenFiring s (if decodeTxKey (txKey s.core) = row then r else .refused .rowNotSelected)

/-- An event that takes the core of `s` to `c`; the environment stays. -/
def becomes (c : CoreState) (s : State) : Result := .next (withCore c s)

/-- The outcome, at `s`, of an event of the core whose work may end in a fault. -/
def outcome (r : Except Fault CoreState) (s : State) : Result :=
  match r with
  | .ok c => becomes c s
  | .error f => .fault f

/-! ### The next event -/

/-- The next event word the environment delivers and the state without it. -/
def fetch (s : State) : Option (EventWord × State) :=
  match s.trace with
  | [] => none
  | w :: ws => some (w, setTrace ws s)

/-- The environment's next event becomes the word `w`. -/
def deliver (w : EventWord) (s : State) : State := setTrace (w :: s.trace) s

/-- `cfg` with the flag set that a row of format RXB has as its `cond` in spec/opcode_table.json; unchanged for any other
instruction. -/
def withRowCond (row : Instr) (c : LineConfig) : LineConfig :=
  match row with
  | .rxXoff _ => { c with flow := true }
  | .rxXon _ => { c with flow := true }
  | .rxIgncr _ => { c with igncr := true }
  | .rxErase _ => { c with canonical := true }
  | .rxEraseBs _ => { c with canonical := true }
  | .rxKill _ => { c with canonical := true }
  | .rxWerase _ => { c with canonical := true }
  | .rxNl _ => c
  | .rxOrd _ => c
  | .reset => c
  | .rx _ => c
  | .txrdy => c
  | .rd => c
  | .wr _ => c
  | .txHalt => c
  | .txLf => c
  | .txErase0 => c
  | .txErasen => c
  | .txData => c
  | .txIdle => c

/-- A ring buffer that is empty or not as `full` says: left alone where it already is, else emptied, or holding one byte. -/
def ringOccupied (n : Nat) (full : Bool) (r : Ring) : Ring :=
  if full == !ringIsEmpty r then r
  else if full then (ringPut n r 0x41).2
  else { r with tail := r.head }

/-- The core with what the key `k` is formed from (R95) set so that the key is `k`; what already agrees is left. -/
def withTxKey (k : TxKey) (s : CoreState) : CoreState :=
  { s with
    haltOutput := k.getLsbD 4
    pendingLineFeed := k.getLsbD 3
    eraseState :=
      if !k.getLsbD 2 then .idle else if s.eraseState = .idle then .sendSpace else s.eraseState
    eraseBacklog := if k.getLsbD 1 then max 1 s.eraseBacklog else 0
    txbuf := ringOccupied s.par.nTx (k.getLsbD 0) s.txbuf }

/-- The state in which the very next step runs the code `c`: an event word is put before the trace (a `TXRDY` word with
`TXIE` set, since no firing is delivered otherwise, R180); a received byte comes as its `RX` event with the cond of its row
holding; a transmit key comes as a `TXRDY` event with the key formed. Log 13. -/
def place (row : Instr) (c : Code) (s : State) : State :=
  match c with
  | .event w => if row = .txrdy then deliver w (withCore (setTxIrq true s.core) s) else deliver w s
  | .rxByte v => deliver (eventWord 1 v) { s with par := { s.par with cfg := withRowCond row s.par.cfg } }
  | .txKey k => deliver (eventWord 2 0) (withCore (setTxIrq true (withTxKey k s.core)) s)

/-- The code of a word of spec/opcode_table.json that the decoder reads as `row`: the word itself in that row's format. -/
def tableCode (row : Instr) (w : Nat) : Code :=
  match encode row with
  | .event _ => .event (BitVec.ofNat 11 w)
  | .rxByte _ => .rxByte (BitVec.ofNat 8 w)
  | .txKey _ => .txKey (BitVec.ofNat 5 w)

/-- A word of spec/opcode_table.json placed where the step fetches its next event. -/
def placeTableWord (nbits w : Nat) (s : State) : State :=
  match decodeTableWord nbits w with
  | some row => place row (tableCode row w) s
  | none => deliver (BitVec.ofNat 11 w) s

end Sys2Proof.Machine
end

