-- ==== Sys2Proof/Machine/HostPort.lean ====
section
/-!
DEFINITION. The host port: the events `RD` (R200, R201) and `WR` (R202).
-/

namespace Sys2Proof.Machine

/-- `LineReadyCounter` gives up a line when its `NL` is taken, in canonical mode only (R201). -/
def uncountLine (v : Byte) (s : CoreState) : CoreState :=
  if s.par.cfg.canonical ∧ v = s.par.nl then setLineReadyCounter (s.lineReadyCounter - 1) s else s

/-- `read_nonblocking()` (R201): its result, and the state after. -/
def readByte (s : CoreState) : Res × CoreState :=
  if !rdReady s then (.empty, s)
  else
    match ringGet .rx s.par.nRx s.rxbuf with
    | (.byte v, r) => (.byte v, uncountLine v (setRxbuf r s))
    | (_, _) => (.empty, s)

/-- `RD` (R201); the result is appended to `RDLOG` (R52). -/
def execRd (s : State) : Result :=
  whenStarted s (becomes (logRd (readByte s.core).1 (readByte s.core).2) s)

/-- `WR w` (R202): `TxEnqueue(w)`, its result given to the host. -/
def execWr (w : Byte) (s : State) : Result :=
  whenStarted s (becomes (txEnqueue w s.core).2 (logWr (txEnqueue w s.core).1 s))

end Sys2Proof.Machine
end

