-- ==== Sys2Proof/Machine/Receive.lean ====
section
/-!
DEFINITION. The receive engine: the event `RX` written as the pseudocode of R130, and the nine rows of its received-byte
decode (R83), each written from its own rule (R131 to R143).
-/

namespace Sys2Proof.Machine

/-! ### Actions -/

/-- Received `XOFF` (R131): `HaltOutput <- 1; SetTxIrq(0)`. -/
def pauseOutput (s : CoreState) : CoreState := setTxIrq false (setHaltOutput true s)

/-- Received `XON` (R132): `HaltOutput <- 0; SetTxIrq(1)`. -/
def resumeOutput (s : CoreState) : CoreState := setTxIrq true (setHaltOutput false s)

/-- The echo of a triggering erase, kill or word-erase byte: made only where the visual flag is off and at least one
character was removed (R138 to R140). -/
def echoTrigger (visual : Bool) (removed : Nat) (b : Byte) (s : CoreState) : CoreState :=
  if !visual ∧ 0 < removed then echo b s else s

/-- Erase (R138): retract one character. -/
def eraseAction (b : Byte) (s : CoreState) : Except Fault CoreState :=
  match retractOne .none false s with
  | .error f => .error f
  | .ok (e, t) => .ok (echoTrigger s.par.cfg.echoe e.toNat b t)

/-- Kill (R139): retract the whole current line. -/
def killAction (b : Byte) (s : CoreState) : Except Fault CoreState :=
  match retractUntil .none true s with
  | .error f => .error f
  | .ok (n, t) => .ok (echoTrigger s.par.cfg.echok n b t)

/-- Word-erase (R140): retract the trailing spaces, then the word. -/
def weraseAction (b : Byte) (s : CoreState) : Except Fault CoreState :=
  match retractUntil .atNonSpace false s with
  | .error f => .error f
  | .ok (n1, t) =>
    match retractUntil .atSpace false t with
    | .error f => .error f
    | .ok (n2, u) => .ok (echoTrigger s.par.cfg.echoe (n1 + n2) b u)

/-- The free slots a byte needs (R141). -/
def slotsNeeded (p : Params) (b : Byte) : Nat :=
  if p.cfg.canonical ∧ b ≠ p.nl then 2 else 1

/-- Whether a byte is admitted to `RXBUF` (R141). -/
def isAdmitted (b : Byte) (s : CoreState) : Bool :=
  decide (slotsNeeded s.par b ≤ ringFree s.par.nRx s.rxbuf)

/-- `LineReadyCounter` counts an admitted `NL`, in canonical mode only (R142). -/
def countLine (b : Byte) (s : CoreState) : CoreState :=
  if s.par.cfg.canonical ∧ b = s.par.nl then setLineReadyCounter (s.lineReadyCounter + 1) s else s

/-- A refused byte (R143): the bell, if `cfg.bell`. -/
def refuseByte (s : CoreState) : CoreState := if s.par.cfg.bell then enqueue s.par.bel s else s

/-- Step 6, ordinary admission (R141 to R143). -/
def admitAction (b : Byte) (s : CoreState) : CoreState :=
  if isAdmitted b s then echo b (rxPut b (countLine b s)) else refuseByte s

/-! ### The event -/

/-- Steps 5 and 6 of R130 on the byte left by step 4. -/
def steps5and6 (b : Byte) (s : CoreState) : Except Fault CoreState :=
  if s.par.cfg.canonical then
    if b = s.par.cfg.eraseCode ∨ b = s.par.bs then eraseAction b s
    else if b = s.par.cfg.killCode then killAction b s
    else if b = s.par.cfg.weraseCode then weraseAction b s
    else .ok (admitAction b s)
  else .ok (admitAction b s)

/-- Steps 2 to 6 of R130 on the raw byte. -/
def steps2to6 (v : Byte) (s : CoreState) : Except Fault CoreState :=
  if s.par.cfg.igncr ∧ stripByte s.par v = s.par.cr then .ok s
  else steps5and6 (mapInput s.par (stripByte s.par v)) s

/-- All of R130 on the raw byte `v`: flow control (step 1), then steps 2 to 6. -/
def receive (v : Byte) (s : CoreState) : Except Fault CoreState :=
  if s.par.cfg.flow then
    if v = s.par.xoff then .ok (pauseOutput s)
    else if v = s.par.xon then .ok (resumeOutput s)
    else steps2to6 v s
  else steps2to6 v s

/-- `RX v` (R130). -/
def execRx (v : Byte) (s : State) : Result := whenStarted s (outcome (receive v s.core) s)

/-! ### The rows of the received-byte decode -/

/-- `RX.XOFF` (R131). -/
def execRxXoff (v : Byte) (s : State) : Result :=
  whenRxRow (.rxXoff v) v s (becomes (pauseOutput s.core) s)

/-- `RX.XON` (R132). -/
def execRxXon (v : Byte) (s : State) : Result :=
  whenRxRow (.rxXon v) v s (becomes (resumeOutput s.core) s)

/-- `RX.IGNCR` (R135): no state changes. -/
def execRxIgncr (v : Byte) (s : State) : Result :=
  whenRxRow (.rxIgncr v) v s (becomes s.core s)

/-- `RX.ERASE` (R138), triggered by `cfg.erase_code`. -/
def execRxErase (v : Byte) (s : State) : Result :=
  whenRxRow (.rxErase v) v s (outcome (eraseAction s.par.cfg.eraseCode s.core) s)

/-- `RX.ERASE_BS` (R138), triggered by `BS`. -/
def execRxEraseBs (v : Byte) (s : State) : Result :=
  whenRxRow (.rxEraseBs v) v s (outcome (eraseAction s.par.bs s.core) s)

/-- `RX.KILL` (R139), triggered by `cfg.kill_code`. -/
def execRxKill (v : Byte) (s : State) : Result :=
  whenRxRow (.rxKill v) v s (outcome (killAction s.par.cfg.killCode s.core) s)

/-- `RX.WERASE` (R140), triggered by `cfg.werase_code`. -/
def execRxWerase (v : Byte) (s : State) : Result :=
  whenRxRow (.rxWerase v) v s (outcome (weraseAction s.par.cfg.weraseCode s.core) s)

/-- `RX.NL` (R141 to R143): admission of a line terminator. -/
def execRxNl (v : Byte) (s : State) : Result :=
  whenRxRow (.rxNl v) v s (becomes (admitAction s.par.nl s.core) s)

/-- `RX.ORD` (R141 to R143): admission of any other byte. -/
def execRxOrd (v : Byte) (s : State) : Result :=
  whenRxRow (.rxOrd v) v s (becomes (admitAction (receivedByte s.par v) s.core) s)

end Sys2Proof.Machine
end

