-- ==== Sys2Proof/Machine/Reset.lean ====
section
/-!
DEFINITION. The event `RESET` (R250, R256, R258).
-/

namespace Sys2Proof.Machine

/-- `RESET` (R250) with the parameters presented at the reset/init port. A malformed configuration is refused (R256), as is
`TX_UNPUT` (R169), an `EB_W` of 0 (R6, log 11), and a change of the parameters of a started core (R258). -/
def execReset (s : State) : Result :=
  if !configValid s.initParams then .refused .malformedConfiguration
  else if s.initParams.txUnput then .refused .txUnputUnsupported
  else if s.initParams.ebW = 0 then .refused .backlogWidthZero
  else if s.started ∧ s.initParams ≠ s.par then .refused .configurationChange
  else .next (launch s)

end Sys2Proof.Machine
end

