-- ==== Sys2Proof/Machine/Transmit.lean ====
section
/-!
DEFINITION. The transmit engine: the event `TXRDY` written as the pseudocode of R188, and the six rows of its decode (R94),
each written from its own rule (R181 to R187) and the transition table of R190.
-/

namespace Sys2Proof.Machine

/-! ### The event -/

/-- Step 3 (R183): with a backlog and no replay in progress, one unit is taken and a replay begins. -/
def startReplay (s : CoreState) : CoreState :=
  if 0 < s.eraseBacklog ∧ s.eraseState = .idle then
    setEraseState .sendBackspace1 (setEraseBacklog (s.eraseBacklog - 1) s)
  else s

/-- Step 4 (R184): the byte of the replay's sub-state, and the next sub-state. -/
def replayByte (s : CoreState) : CoreState :=
  match s.eraseState with
  | .sendBackspace1 => setEraseState .sendSpace (send s.par.bs s)
  | .sendSpace => setEraseState .sendBackspace2 (send s.par.sp s)
  | .sendBackspace2 => setEraseState .idle (send s.par.bs s)
  | .idle => s

/-- Output mapping (R186) of a dequeued byte, and its sending. -/
def sendMapped (w : Byte) (s : CoreState) : CoreState :=
  if s.par.cfg.ocrnl ∧ w = s.par.cr then send s.par.nl s
  else if s.par.cfg.onlcr ∧ w = s.par.nl then setPendingLineFeed true (send s.par.cr s)
  else send w s

/-- The bytes a dequeued byte leaves as (R186): one, or `CR` and `NL` where it is split over two firings. -/
def mappedOutput (p : Params) (w : Byte) : List Byte :=
  if p.cfg.ocrnl ∧ w = p.cr then [p.nl]
  else if p.cfg.onlcr ∧ w = p.nl then [p.cr, p.nl]
  else [w]

/-- Steps 5 and 6 (R185, R187): a byte of `TXBUF`, or the interrupt source turned off. -/
def dataOrIdle (s : CoreState) : CoreState :=
  match ringGet .tx s.par.nTx s.txbuf with
  | (.byte w, r) => sendMapped w (setTxbuf r s)
  | (_, _) => setTxIrq false s

/-- Steps 3 to 6 of R188. -/
def steps3to6 (s : CoreState) : CoreState :=
  if (startReplay s).eraseState = .idle then dataOrIdle (startReplay s) else replayByte (startReplay s)

/-- All of R188: one firing. -/
def fire (s : CoreState) : CoreState :=
  if s.haltOutput then setTxIrq false s
  else if s.pendingLineFeed then setPendingLineFeed false (send s.par.nl s)
  else steps3to6 s

/-- `TXRDY` (R188), enabled while `TXIE == 1` (R180). -/
def execTxrdy (s : State) : Result := whenFiring s (becomes (fire s.core) s)

/-! ### The rows of the transmit decode -/

/-- The `NL` of a split newline is sent (R182). -/
def sendLineFeed (s : CoreState) : CoreState := setPendingLineFeed false (send s.par.nl s)

/-- A replay begins and sends its first `BS` (R183, R184). -/
def beginReplay (s : CoreState) : CoreState :=
  setEraseState .sendSpace (setEraseBacklog (s.eraseBacklog - 1) (send s.par.bs s))

/-- The oldest byte of `TXBUF` is dequeued, mapped and sent (R185, R186). -/
def sendData (s : CoreState) : CoreState :=
  sendMapped (txSlot s s.txbuf.head) (setTxbuf { s.txbuf with head := cursorNext s.par.nTx s.txbuf.head } s)

/-- `TX.HALT` (R181): the interrupt source is disabled, nothing is sent. -/
def execTxHalt (s : State) : Result := whenTxRow .txHalt s (becomes (setTxIrq false s.core) s)

/-- `TX.LF` (R182): the `NL` of a split newline. -/
def execTxLf (s : State) : Result := whenTxRow .txLf s (becomes (sendLineFeed s.core) s)

/-- `TX.ERASE0` (R183, R184): a replay begins and sends its first `BS` in the same firing. -/
def execTxErase0 (s : State) : Result := whenTxRow .txErase0 s (becomes (beginReplay s.core) s)

/-- `TX.ERASEn` (R184): a replay in progress sends its next byte. -/
def execTxErasen (s : State) : Result := whenTxRow .txErasen s (becomes (replayByte s.core) s)

/-- `TX.DATA` (R185, R186): the oldest byte of `TXBUF` is dequeued, mapped and sent. -/
def execTxData (s : State) : Result := whenTxRow .txData s (becomes (sendData s.core) s)

/-- `TX.IDLE` (R187): no work remains and the interrupt source is disabled. -/
def execTxIdle (s : State) : Result := whenTxRow .txIdle s (becomes (setTxIrq false s.core) s)

end Sys2Proof.Machine
end

