-- ==== Sys2Proof/Machine/Dispatch.lean ====
section
/-!
DEFINITION. The dispatch: one arm per constructor of `Instr`, each one direct call of that instruction's meaning.
-/

namespace Sys2Proof.Machine

-- What an instruction does to a state (R5): its meaning, one definition each.
def exec (i : Instr) (s : State) : Host.Outcome State Fault Refusal :=
  match i with
  -- format EV: the events (R81)
  | .reset => Sys2Proof.Machine.execReset s
  | .rx v => Sys2Proof.Machine.execRx v s
  | .txrdy => Sys2Proof.Machine.execTxrdy s
  | .rd => Sys2Proof.Machine.execRd s
  | .wr w => Sys2Proof.Machine.execWr w s
  -- format RXB: the rows of the received-byte decode (R83)
  | .rxXoff v => Sys2Proof.Machine.execRxXoff v s
  | .rxXon v => Sys2Proof.Machine.execRxXon v s
  | .rxIgncr v => Sys2Proof.Machine.execRxIgncr v s
  | .rxErase v => Sys2Proof.Machine.execRxErase v s
  | .rxEraseBs v => Sys2Proof.Machine.execRxEraseBs v s
  | .rxKill v => Sys2Proof.Machine.execRxKill v s
  | .rxWerase v => Sys2Proof.Machine.execRxWerase v s
  | .rxNl v => Sys2Proof.Machine.execRxNl v s
  | .rxOrd v => Sys2Proof.Machine.execRxOrd v s
  -- format TXK: the rows of the transmit decode (R94)
  | .txHalt => Sys2Proof.Machine.execTxHalt s
  | .txLf => Sys2Proof.Machine.execTxLf s
  | .txErase0 => Sys2Proof.Machine.execTxErase0 s
  | .txErasen => Sys2Proof.Machine.execTxErasen s
  | .txData => Sys2Proof.Machine.execTxData s
  | .txIdle => Sys2Proof.Machine.execTxIdle s

end Sys2Proof.Machine
end

