-- ==== Sys2Proof/Machine/Step.lean ====
section
/-!
DEFINITION. The step: the environment's next event word is decoded and its event runs whole (R5, R65). With no event pending
nothing happens (R5, R251; log 2). And the host's way of placing one word of spec/opcode_table.json (log 13).
-/

namespace Sys2Proof.Machine

/-- An event word run on the state it is taken from (R65); a reserved word has no transition (R82). -/
def runWord (w : EventWord) (s : State) : Result :=
  match decodeEvent w with
  | .ok i => exec i s
  | .error why => .refused (.reservedEventWord why)

/-- One step: the next event of the trace, whole; with no event pending the state does not change (R5). -/
def step (s : State) : Host.Outcome State Fault Refusal :=
  match fetch s with
  | some (w, t) => runWord w t
  | none => .next s

/-- A word of spec/opcode_table.json placed where `step` fetches its next event. Log 13. -/
def State.withFetchWord (s : State) (nbits w : Nat) : State := placeTableWord nbits w s

end Sys2Proof.Machine
end

