-- ==== Sys2Proof/Machine/Facade.lean ====
section
/-!
DEFINITION. The pseudo-operations of R92 and the foreground loops of R203 and R204: shorthand for sequences of events, not
events themselves. `Idle()` (R205) touches no state; what other agents do while a loop waits is given as lists of events
(U1). Also the textual form of an event (R91).
-/

namespace Sys2Proof.Machine

/-- A sequence of events, stopping at the first fault or refusal. -/
def runEvents (is : List Instr) (s : State) : Result :=
  match is with
  | [] => .next s
  | i :: rest =>
    match exec i s with
    | .next t => runEvents rest t
    | .fault f => .fault f
    | .refused r => .refused r

/-- `RXS "text"` (R92): one `RX` per character, in order. -/
def rxs (text : List Byte) : List Instr := text.map Instr.rx

/-- `WRS "text"` (R92): one `WR` per character, in order. -/
def wrs (text : List Byte) : List Instr := text.map Instr.wr

/-- `k` firings, whatever `TXIE` is. -/
def firings (k : Nat) (s : State) : Result := runEvents (List.replicate k .txrdy) s

/-- `DRAIN` (R92) in at most `fuel` firings: repeat `TXRDY` while `TXIE == 1`. -/
def drain (fuel : Nat) (s : State) : Result :=
  match fuel with
  | 0 => .next s
  | fuel + 1 =>
    if s.txie then
      match exec .txrdy s with
      | .next t => drain fuel t
      | .fault f => .fault f
      | .refused r => .refused r
    else .next s

/-- The last result of a sequence of results; `empty` where there is none. -/
def lastResult (rs : List Res) : Res := rs.getLastD .empty

/-- The blocking `read` (R203): poll with `RD`; while the result is `empty`, let the events of the next wait happen and poll
again. It gives `none` where the waits run out with every poll empty. -/
def blockingRead (waits : List (List Instr)) (s : State) : Host.Outcome (Option Byte × State) Fault Refusal :=
  match exec .rd s with
  | .fault f => .fault f
  | .refused r => .refused r
  | .next t =>
    match lastResult t.rdlog with
    | .byte v => .next (some v, t)
    | _ =>
      match waits with
      | [] => .next (none, t)
      | wait :: rest =>
        match runEvents wait t with
        | .next u => blockingRead rest u
        | .fault f => .fault f
        | .refused r => .refused r

/-- The blocking `write w` (R204): poll with `WR w` until it returns `ok`; whether it did, and the state after. -/
def blockingWrite (w : Byte) (waits : List (List Instr)) (s : State) : Host.Outcome (Bool × State) Fault Refusal :=
  match exec (.wr w) s with
  | .fault f => .fault f
  | .refused r => .refused r
  | .next t =>
    if lastResult t.wrlog = .ok then .next (true, t)
    else
      match waits with
      | [] => .next (false, t)
      | wait :: rest =>
        match runEvents wait t with
        | .next u => blockingWrite w rest u
        | .fault f => .fault f
        | .refused r => .refused r

/-- A byte as `0xHH` (R91). -/
def hexByte (b : Byte) : String :=
  let digit (n : Nat) : Char := "0123456789ABCDEF".toList.getD n '0'
  "0x" ++ String.ofList [digit (b.toNat / 16), digit (b.toNat % 16)]

/-- The line of a trace that stands for an event (R91); the rows of the second-level decodes have no line. -/
def traceLine : Instr → Option String
  | .reset => some "RESET"
  | .rx v => some ("RX " ++ hexByte v)
  | .txrdy => some "TXRDY"
  | .rd => some "RD"
  | .wr w => some ("WR " ++ hexByte w)
  | .rxXoff _ => none
  | .rxXon _ => none
  | .rxIgncr _ => none
  | .rxErase _ => none
  | .rxEraseBs _ => none
  | .rxKill _ => none
  | .rxWerase _ => none
  | .rxNl _ => none
  | .rxOrd _ => none
  | .txHalt => none
  | .txLf => none
  | .txErase0 => none
  | .txErasen => none
  | .txData => none
  | .txIdle => none

end Sys2Proof.Machine
end

