-- ==== Sys2Proof/Safety.lean ====
section
/-!
DEFINITION. What a safe state is, in the terms the statements use: the invariants the rules state of every state after an
event, and the views of a state (the current line, the work owed, the bytes a sweep removes) in which the rules speak.
-/

namespace Sys2Proof.Machine

/-! ### Views -/

/-- Transmit work is outstanding (R191). -/
def workOutstanding (s : CoreState) : Bool :=
  s.pendingLineFeed || s.eraseState != .idle || decide (0 < s.eraseBacklog) || !ringIsEmpty s.txbuf

/-- What is left to send of the replay in progress (R184, R191). -/
def replayRest (p : Params) : EraseState → List Byte
  | .idle => []
  | .sendBackspace1 => [p.bs, p.sp, p.bs]
  | .sendSpace => [p.sp, p.bs]
  | .sendBackspace2 => [p.bs]

/-- The bytes the transmit engine owes, in the order it sends them (R68, R191): the `NL` of a split newline, the rest of
the replay, the replays of the backlog, then `TXBUF` after output mapping. -/
def owedBytes (s : CoreState) : List Byte :=
  (if s.pendingLineFeed then [s.par.nl] else []) ++ replayRest s.par s.eraseState ++
    (List.replicate s.eraseBacklog [s.par.bs, s.par.sp, s.par.bs]).flatten ++
    (txResident s).flatMap (mappedOutput s.par)

/-- The current line (glossary of `00_scope.md`): the bytes after the last `NL` of `l`, newest first. -/
def currentLineNewestFirst (p : Params) (l : List Byte) : List Byte :=
  l.reverse.takeWhile fun c => c != p.nl

/-- What a sweep with a stop strategy removes of `l`, newest first (R161, R163): up to a `NL` or a byte that stops it. -/
def sweepRemoves (p : Params) (stop : Stop) (l : List Byte) : List Byte :=
  l.reverse.takeWhile fun c => c != p.nl && !stops p stop c

/-- What a sweep with a stop strategy leaves of `l`. -/
def sweepLeaves (p : Params) (stop : Stop) (l : List Byte) : List Byte :=
  (l.reverse.dropWhile fun c => c != p.nl && !stops p stop c).reverse

/-- What one erase leaves of `l` (R138, R160): all but the newest byte, unless that is an `NL`. -/
def eraseLeaves (p : Params) (l : List Byte) : List Byte :=
  if l.getLast? = some p.nl then l else l.dropLast

/-- What one erase removes of `l`. -/
def eraseRemoves (p : Params) (l : List Byte) : List Byte :=
  if l.getLast? = some p.nl then [] else l.getLast?.toList

/-- The columns owed for erased characters (R162): none where the visual flag is off. -/
def columnsOwed (p : Params) (isKill : Bool) (erased : List Byte) : Nat :=
  if visualFlag p isKill then (erased.map (columns p)).sum else 0

/-- The bytes `Echo(b)` enqueues, in order (R145). -/
def echoBytes (p : Params) (b : Byte) : List Byte :=
  if b = p.nl then (if p.cfg.echo ∨ p.cfg.echonl then [p.nl] else [])
  else if !p.cfg.echo then []
  else if p.cfg.echoctl ∧ isCtl b then [p.caret, b ^^^ ctlXor]
  else [b]

/-- Whether adding `k` to `EraseBacklog` stays below 2^EB_W (the premise R263 asks of a claim). -/
abbrev backlogRoom (k : Nat) (s : State) : Prop := s.eraseBacklog + k < 2 ^ s.par.ebW

/-- What the triggering byte of an erase, kill or word-erase echoes (R138 to R140): nothing where the visual flag is on or no
character was removed. -/
def triggerEcho (p : Params) (isKill : Bool) (b : Byte) (removed : List Byte) : List Byte :=
  if visualFlag p isKill ∨ removed = [] then [] else echoBytes p b

/-! ### Frames -/

/-- What no `RX` event writes (R130, R234): both `head` cursors, `EraseState`, `PendingLineFeed`, the bytes sent, the results
given to the host, the parameters, the port and the trace. -/
abbrev rxKeeps (s t : State) : Prop :=
  t.par = s.par ∧ t.rxbuf.head = s.rxbuf.head ∧ t.txbuf.head = s.txbuf.head ∧ t.eraseState = s.eraseState ∧
    t.pendingLineFeed = s.pendingLineFeed ∧ t.out = s.out ∧ t.rdlog = s.rdlog ∧ t.wrlog = s.wrlog ∧
    t.started = s.started ∧ t.initParams = s.initParams ∧ t.trace = s.trace

/-- What no `TXRDY` event writes (R188, R234): `RXBUF`, `TXBUF.tail` and its storage, `LineReadyCounter`, `HaltOutput`, the
results given to the host, the parameters, the port and the trace. -/
abbrev txKeeps (s t : State) : Prop :=
  t.par = s.par ∧ t.rxbuf = s.rxbuf ∧ t.txbuf.tail = s.txbuf.tail ∧ t.txbuf.storage = s.txbuf.storage ∧
    t.lineReadyCounter = s.lineReadyCounter ∧ t.haltOutput = s.haltOutput ∧ t.rdlog = s.rdlog ∧ t.wrlog = s.wrlog ∧
    t.started = s.started ∧ t.initParams = s.initParams ∧ t.trace = s.trace

/-- Every slot of `RXBUF` reads as before. -/
abbrev rxSlotsKept (s t : State) : Prop := ∀ a, a < s.par.nRx → rxSlot t.core a = rxSlot s.core a

/-- Every slot of `TXBUF` reads as before. -/
abbrev txSlotsKept (s t : State) : Prop := ∀ a, a < s.par.nTx → txSlot t.core a = txSlot s.core a

/-- The bytes `ws` are enqueued into `TXBUF` one after the other, those that find it full being dropped (R144): the resident
bytes, the get cursor, and every slot but the `ws.length` slots from the put cursor on. -/
abbrev txAppends (s t : State) (ws : List Byte) : Prop :=
  txResident t.core = (txResident s.core ++ ws).take (s.par.nTx - 1) ∧ t.txbuf.head = s.txbuf.head ∧
    ∀ a, a < s.par.nTx → (∀ j, j < ws.length → a ≠ (s.txbuf.tail + j) % s.par.nTx) →
      txSlot t.core a = txSlot s.core a

/-- What an erase, kill or word-erase event does (R138 to R140, R160 to R164) when it leaves `left` of the bytes resident in
`RXBUF` and removes `removed`: `left` stays, the columns owed are added to `EraseBacklog`, the trigger is echoed where the
visual flag is off, and nothing else changes; no slot of `RXBUF` reads differently. -/
abbrev erasedOutcome (s t : State) (isKill : Bool) (b : Byte) (left removed : List Byte) : Prop :=
  rxKeeps s t ∧ rxSlotsKept s t ∧ rxResident t.core = left ∧ t.lineReadyCounter = s.lineReadyCounter ∧
    t.haltOutput = s.haltOutput ∧ t.eraseBacklog = s.eraseBacklog + columnsOwed s.par isKill removed ∧
    txAppends s t (triggerEcho s.par isKill b removed) ∧
    t.txie = (s.txie || (visualFlag s.par isKill && !removed.isEmpty) || !(triggerEcho s.par isKill b removed).isEmpty)

/-- The characters a word-erase removes of `l`, newest first (R140): the trailing spaces, then the word. -/
def weraseRemoves (p : Params) (l : List Byte) : List Byte :=
  sweepRemoves p .atNonSpace l ++ sweepRemoves p .atSpace (sweepLeaves p .atNonSpace l)

/-- What a word-erase leaves of `l` (R140). -/
def weraseLeaves (p : Params) (l : List Byte) : List Byte :=
  sweepLeaves p .atSpace (sweepLeaves p .atNonSpace l)

/-! ### Invariants -/

/-- A ring buffer as R23 to R25 have it: both cursors slot indices, the storage in canonical form within its slots. -/
abbrev ringOk (n : Nat) (r : Ring) : Prop :=
  r.head < n ∧ r.tail < n ∧ Memory.wf r.storage = true ∧ slotsBelow n r.storage = true

/-- Every resident slot has been written (R64). -/
abbrev residentWritten (n : Nat) (r : Ring) : Prop :=
  ∀ i, i < ringCount n r → (memRead r.storage ((r.head + i) % n)).isSome = true

/-- A started core runs with launchable parameters (R223, R256); one not started has nothing in its storages. -/
abbrev paramsOk (s : State) : Prop :=
  (s.started = true → launchable s.par = true) ∧
    (s.started = false → s.rxbuf.storage = [] ∧ s.txbuf.storage = [])

/-- Both ring buffers of a started core are as R23 to R25 have them. -/
abbrev ringsOk (s : State) : Prop :=
  s.started = true → ringOk s.par.nRx s.rxbuf ∧ ringOk s.par.nTx s.txbuf

/-- No slot that a `get` or `unput` can reach is unwritten (R64). -/
abbrev writtenOk (s : State) : Prop :=
  s.started = true → residentWritten s.par.nRx s.rxbuf ∧ residentWritten s.par.nTx s.txbuf

/-- `LineReadyCounter` is the number of resident `NL`s in canonical mode and 0 in raw mode (R26). -/
abbrev lineCountOk (s : State) : Prop :=
  s.started = true →
    (s.par.cfg.canonical = true → s.lineReadyCounter.toNat = (rxResident s.core).count s.par.nl) ∧
    (s.par.cfg.canonical = false → s.lineReadyCounter = 0)

/-- In canonical mode the current line holds at most `N_RX - 2` bytes (R141). -/
abbrev lineRoomOk (s : State) : Prop :=
  s.started = true → s.par.cfg.canonical = true →
    (currentLineNewestFirst s.par (rxResident s.core)).length ≤ s.par.nRx - 2

/-- `EraseBacklog` fits its EB_W bits (R27). -/
abbrev backlogOk (s : State) : Prop := s.started = true → s.eraseBacklog < 2 ^ s.par.ebW

/-- After every event `EraseState` is `Idle`, `SendSpace` or `SendBackspace2` (R28). -/
abbrev replayOk (s : State) : Prop := s.eraseState ≠ .sendBackspace1

/-- Without flow control `HaltOutput` stays 0 (R48, R133). -/
abbrev haltOk (s : State) : Prop := s.started = true → s.par.cfg.flow = false → s.haltOutput = false

/-- R192: if output is not halted and work is outstanding, the transmit interrupt is enabled. -/
abbrev nothingStranded (s : State) : Prop :=
  s.started = true → s.haltOutput = false → workOutstanding s.core = true → s.txie = true

/-- The shape of a state: the parameters and the two ring buffers. -/
abbrev shapeOk (s : State) : Prop := paramsOk s ∧ ringsOk s

/-- All the invariants the rules state of the state after an event. -/
abbrev Inv (s : State) : Prop :=
  shapeOk s ∧ writtenOk s ∧ lineCountOk s ∧ lineRoomOk s ∧ backlogOk s ∧ replayOk s ∧ haltOk s ∧ nothingStranded s

end Sys2Proof.Machine
end

