-- ==== Sys2Proof/WellFormed.lean ====
section
/-!
DEFINITION. When an instruction is well-formed under given parameters. An event is always: every value of its data is legal
(R82, R93). A row of format RXB is well-formed when the byte it carries meets the row's own match and `cond` (R95) and no row
before it in the order of R83 takes the byte. A row of format TXK has no operand.
-/

namespace Sys2Proof

/-- Order 1 of R83 takes the byte. -/
def takenByXoff (p : Params) (v : Byte) : Bool := p.cfg.flow && v == p.xoff

/-- Order 2 of R83 matches the byte. -/
def takenByXon (p : Params) (v : Byte) : Bool := p.cfg.flow && v == p.xon

/-- Order 3 of R83 matches the byte. -/
def takenByIgncr (p : Params) (v : Byte) : Bool := p.cfg.igncr && stripByte p v == p.cr

/-- Orders 1 to 3 of R83 leave the byte. -/
def reachesStep5 (p : Params) (v : Byte) : Bool :=
  !takenByXoff p v && !takenByXon p v && !takenByIgncr p v

/-- The byte, as steps 5 and 6 see it, is one of the listed codes and the mode is canonical. -/
def isSpecial (p : Params) (codes : List Byte) (v : Byte) : Bool :=
  p.cfg.canonical && codes.contains (receivedByte p v)

/-- The well-formedness of an instruction under the parameters `p`: which bytes a row of format RXB may carry. -/
def wellFormed (p : Params) : Instr → Bool
  | .reset => true
  | .rx _ => true
  | .txrdy => true
  | .rd => true
  | .wr _ => true
  | .rxXoff v => takenByXoff p v
  | .rxXon v => takenByXon p v && !takenByXoff p v
  | .rxIgncr v => takenByIgncr p v && !takenByXoff p v && !takenByXon p v
  | .rxErase v => reachesStep5 p v && isSpecial p [p.cfg.eraseCode] v
  | .rxEraseBs v => reachesStep5 p v && isSpecial p [p.bs] v && !isSpecial p [p.cfg.eraseCode] v
  | .rxKill v => reachesStep5 p v && isSpecial p [p.cfg.killCode] v && !isSpecial p [p.cfg.eraseCode, p.bs] v
  | .rxWerase v =>
    reachesStep5 p v && isSpecial p [p.cfg.weraseCode] v && !isSpecial p [p.cfg.eraseCode, p.bs, p.cfg.killCode] v
  | .rxNl v =>
    reachesStep5 p v && receivedByte p v == p.nl &&
      !isSpecial p [p.cfg.eraseCode, p.bs, p.cfg.killCode, p.cfg.weraseCode] v
  | .rxOrd v =>
    reachesStep5 p v && !(receivedByte p v == p.nl) &&
      !isSpecial p [p.cfg.eraseCode, p.bs, p.cfg.killCode, p.cfg.weraseCode] v
  | .txHalt => true
  | .txLf => true
  | .txErase0 => true
  | .txErasen => true
  | .txData => true
  | .txIdle => true

end Sys2Proof
end

