-- ==== Sys2Proof/Certificates/Slice0/Obligations.lean ====
section
/-!
DEFINITION. The statements for the provers, each with the rule of spec/ it formalises or rests on. `shapeOk` (Safety.lean) is
the premise that rules out states no run reaches: launchable parameters and ring buffers as R23 to R25 have them; that every
step keeps it is `Obligations.StepKeepsShape`.
-/

open Sys2Proof Sys2Proof.Machine

/-! ### Encoding and decoding -/

/-- Decode and encode agree on every well-formed instruction of the three formats, under all parameters (R81, R83, R95). -/
def Obligations.DecodeEncodeRoundTrip : Prop :=
  ∀ (p : Params) (i : Instr), wellFormed p i = true → decode p (encode i) = .ok i

/-- What the decoder gives is well-formed, and an event word or a received byte is the one word of its instruction. -/
def Obligations.DecodedInstructionIsWellFormed : Prop :=
  ∀ (p : Params) (c : Code) (i : Instr), decode p c = .ok i →
    wellFormed p i = true ∧ (∀ w, c = .event w → encode i = c) ∧ (∀ v, c = .rxByte v → encode i = c)

/-- R82: kinds 5 to 7 and data other than 0 with kinds 0, 2, 3 are reserved and have no transition; a `TXRDY` word while
`TXIE == 0` has none either; every data value is legal for `RX` and `WR`. -/
def Obligations.ReservedWordsHaveNoTransition : Prop :=
  (∀ w : EventWord, (∃ why, decodeEvent w = .error why) ↔
    (5 ≤ (eventKind w).toNat ∨
      (((eventKind w).toNat = 0 ∨ (eventKind w).toNat = 2 ∨ (eventKind w).toNat = 3) ∧ eventData w ≠ 0))) ∧
  (∀ (s : State) (w : EventWord) (ws : List EventWord) (why : Reject),
    s.trace = w :: ws → decodeEvent w = .error why → step s = .refused (.reservedEventWord why)) ∧
  (∀ (s : State) (ws : List EventWord), s.started = true → s.txie = false → s.trace = eventWord 2 0 :: ws →
    step s = .refused .txrdyNotEnabled) ∧
  (∀ v : Byte, decodeEvent (eventWord 1 v) = .ok (.rx v) ∧ decodeEvent (eventWord 4 v) = .ok (.wr v))

/-- Under any parameters a received byte selects exactly one row of R83: the one well-formed row that carries it. -/
def Obligations.EveryByteSelectsOneRow : Prop :=
  ∀ (p : Params) (v : Byte) (i : Instr),
    (wellFormed p i = true ∧ encode i = .rxByte v) ↔ i = decodeRxByte p v

/-- The map of raw values R83 gives for the default parameters (profile T1 has the flags it names). -/
def Obligations.DefaultByteMap : Prop :=
  ∀ v : Byte, decodeRxByte Params.t1 v =
    if v = 0x08 then .rxEraseBs v
    else if v = 0x0A ∨ v = 0x0D then .rxNl v
    else if v = 0x11 then .rxXon v
    else if v = 0x13 then .rxXoff v
    else if v = 0x15 then .rxKill v
    else if v = 0x17 then .rxWerase v
    else if v = 0x7F then .rxErase v
    else .rxOrd v

/-- The six rows of format TXK partition the 32 keys (R95). -/
def Obligations.TransmitKeyRowsPartition : Prop :=
  ∀ k : TxKey, ∃ i : Instr, txkMatches k = [i]

/-- The branch a firing takes, in the order and under the conditions of R94. -/
def Obligations.TransmitBranchSelection : Prop :=
  ∀ s : State, decodeTxKey (txKey s.core) =
    if s.haltOutput = true then .txHalt
    else if s.pendingLineFeed = true then .txLf
    else if s.eraseState = .idle ∧ 0 < s.eraseBacklog then .txErase0
    else if s.eraseState ≠ .idle then .txErasen
    else if ringIsEmpty s.txbuf = false then .txData
    else .txIdle

/-- R90: the packed form of `cfg` and its inverse, and the word of profile T1. -/
def Obligations.ConfigWordRoundTrip : Prop :=
  (∀ c : LineConfig, LineConfig.ofWord c.toWord = c) ∧ (∀ w : ConfigWord, (LineConfig.ofWord w).toWord = w) ∧
    LineConfig.t1.toWord = 0x5C55FF85F ∧ LineConfig.t1.toWord.extractLsb' 0 14 = 0x385F

/-- Words written out from the encodings of R80, R94 and the codes of R6 decode to the instructions they stand for. -/
def Obligations.SpelledWordsDecode : Prop :=
  decodeEvent 0b00000000000 = .ok .reset ∧ decodeEvent 0b00101100001 = .ok (.rx 0x61) ∧
    decodeEvent 0b01000000000 = .ok .txrdy ∧ decodeEvent 0b01100000000 = .ok .rd ∧
    decodeEvent 0b10001101000 = .ok (.wr 0x68) ∧ decodeRxByte Params.t1 0b00010011 = .rxXoff 0x13 ∧
    decodeRxByte Params.t1 0b00010101 = .rxKill 0x15 ∧ decodeTxKey 0b10000 = .txHalt ∧ decodeTxKey 0b00001 = .txData

/-! ### The step -/

/-- A step runs the event the next word of the trace decodes to, on the state without that word (R65); with no event pending
the state does not change (R5; log 2). -/
def Obligations.StepRunsDecodedEvent : Prop :=
  (∀ (s : State) (w : EventWord) (ws : List EventWord) (i : Instr),
    s.trace = w :: ws → decodeEvent w = .ok i → step s = exec i { s with trace := ws }) ∧
  (∀ s : State, s.trace = [] → step s = .next s)

/-! ### RESET -/

/-- R250: a `RESET` whose configuration is well-formed gives every register its reset value, leaves the storages as they are
and empties `OUT` and `RDLOG`. `launchable` is `ConfigValid` (R256) with `TX_UNPUT` false (R169) and `EB_W` in R6's range. -/
def Obligations.ResetSetsEveryRegister : Prop :=
  ∀ s : State, launchable s.initParams = true → (s.started = true → s.initParams = s.par) →
    ∃ t, exec .reset s = .next t ∧
      t.rxbuf.head = 0 ∧ t.rxbuf.tail = 0 ∧ t.txbuf.head = 0 ∧ t.txbuf.tail = 0 ∧
      t.lineReadyCounter = 0 ∧ t.eraseBacklog = 0 ∧ t.eraseState = .idle ∧ t.haltOutput = false ∧
      t.pendingLineFeed = false ∧ t.txie = false ∧
      t.rxbuf.storage = s.rxbuf.storage ∧ t.txbuf.storage = s.txbuf.storage ∧
      t.out = [] ∧ t.rdlog = [] ∧ t.par = s.initParams ∧ t.started = true ∧
      t.initParams = s.initParams ∧ t.trace = s.trace

/-- R256: `ConfigValid`, and the refusal of what is not. -/
def Obligations.ResetRefusesMalformedConfiguration : Prop :=
  (∀ p : Params, configValid p = true ↔
    ((∃ k, p.nRx = 2 ^ k) ∧ 2 ≤ p.nRx ∧ p.nRx ≤ 256) ∧ ((∃ k, p.nTx = 2 ^ k) ∧ 2 ≤ p.nTx ∧ p.nTx ≤ 256) ∧
      p.xon ≠ p.xoff ∧ p.cr ≠ p.nl) ∧
  (∀ s : State, configValid s.initParams = false → exec .reset s = .refused .malformedConfiguration)

/-- `RESET` of a running core discards resident bytes, backlog and an unfinished replay, and one that would change `cfg` or a
capacity is refused (R258). That a change of a character code is refused as well rests on R270, which gives it no meaning
(log 3), and that a change of any other parameter, such as `EB_W`, is refused is the model's reading (log 10). -/
def Obligations.ResetOfRunningCore : Prop :=
  (∀ s : State, s.started = true → launchable s.par = true → s.initParams = s.par →
    ∃ t, exec .reset s = .next t ∧ rxResident t.core = [] ∧ txResident t.core = [] ∧ t.eraseBacklog = 0 ∧
      t.eraseState = .idle ∧ t.pendingLineFeed = false ∧ t.lineReadyCounter = 0 ∧ t.haltOutput = false ∧
      t.txie = false ∧ t.par = s.par) ∧
  (∀ s : State, s.started = true → launchable s.initParams = true → s.initParams ≠ s.par →
    exec .reset s = .refused .configurationChange)

/-- R252: a second `RESET` leaves what the first left. -/
def Obligations.ResetIsIdempotent : Prop :=
  ∀ s t : State, exec .reset s = .next t → exec .reset t = .next t

/-- R251: after `RESET` both buffers are empty and neither is full, the status signals are 0, no work is outstanding, the core
is quiescent, output is not halted, and no firing can occur. -/
def Obligations.ResetLeavesCoreQuiescent : Prop :=
  ∀ s t : State, exec .reset s = .next t →
    ringIsEmpty t.rxbuf = true ∧ ringIsEmpty t.txbuf = true ∧ ringIsFull t.par.nRx t.rxbuf = false ∧
      ringIsFull t.par.nTx t.txbuf = false ∧ rdReady t.core = false ∧ txFull t.core = false ∧
      workOutstanding t.core = false ∧ t.txie = false ∧ t.haltOutput = false ∧ exec .txrdy t = .refused .txrdyNotEnabled

/-- Before a well-formed `RESET` no other event, nor a row of one, has a transition (R257, U11; log 3). -/
def Obligations.NoTransitionBeforeReset : Prop :=
  ∀ (i : Instr) (s : State), s.started = false → i ≠ .reset → exec i s = .refused .notStarted

/-- `cfg` and the other parameters are immutable once the core is started (R30, R73, R270), whatever runs; the port and the
trace are the environment's and no instruction writes them. -/
def Obligations.ConfigurationIsImmutable : Prop :=
  ∀ (i : Instr) (s t : State), s.started = true → exec i s = .next t →
    t.par = s.par ∧ t.started = true ∧ t.initParams = s.initParams ∧ t.trace = s.trace

/-! ### The receive engine -/

/-- R131: a received `XOFF` sets `HaltOutput` and clears `TXIE`, and nothing else changes; `RX` and the row agree. -/
def Obligations.XoffHaltsOutput : Prop :=
  ∀ (s : State) (v : Byte), s.started = true → s.par.cfg.flow = true → v = s.par.xoff →
    exec (.rxXoff v) s = .next { s with haltOutput := true, txie := false } ∧
      exec (.rx v) s = .next { s with haltOutput := true, txie := false }

/-- R132: a received `XON` clears `HaltOutput` and sets `TXIE` whatever they were, and nothing else changes. -/
def Obligations.XonResumesOutput : Prop :=
  ∀ (s : State) (v : Byte), s.started = true → s.par.cfg.flow = true → v = s.par.xon → v ≠ s.par.xoff →
    exec (.rxXon v) s = .next { s with haltOutput := false, txie := true } ∧
      exec (.rx v) s = .next { s with haltOutput := false, txie := true }

/-- R135: with `igncr` a byte that is `CR` after the strip is discarded and no state changes. -/
def Obligations.IgnoredCrChangesNothing : Prop :=
  ∀ (s : State) (v : Byte), s.started = true → (s.par.cfg.flow = true → v ≠ s.par.xoff ∧ v ≠ s.par.xon) →
    s.par.cfg.igncr = true → stripByte s.par v = s.par.cr →
    exec (.rxIgncr v) s = .next s ∧ exec (.rx v) s = .next s

/-- The steps of R130 and the decode of R83 are one machine: an `RX` event is the row its byte selects. A row its byte does
not select is refused (log 12). -/
def Obligations.ReceiveEventRunsSelectedRow : Prop :=
  (∀ (s : State) (v : Byte), exec (.rx v) s = exec (decodeRxByte s.par v) s) ∧
  (∀ (s : State) (v : Byte) (i : Instr), s.started = true → encode i = .rxByte v → i ≠ decodeRxByte s.par v →
    exec i s = .refused .rowNotSelected)

/-- R141, R142: a byte other than `NL` that finds two free slots in canonical mode, one in raw mode, is stored and echoed. -/
def Obligations.OrdinaryByteAdmitted : Prop :=
  ∀ (s : State) (v : Byte), s.started = true → shapeOk s → wellFormed s.par (.rxOrd v) = true →
    (if s.par.cfg.canonical = true then 2 else 1) ≤ ringFree s.par.nRx s.rxbuf →
    ∃ t, exec (.rxOrd v) s = .next t ∧ rxKeeps s t ∧
      rxResident t.core = rxResident s.core ++ [receivedByte s.par v] ∧
      rxSlot t.core s.rxbuf.tail = receivedByte s.par v ∧
      (∀ a, a < s.par.nRx → a ≠ s.rxbuf.tail → rxSlot t.core a = rxSlot s.core a) ∧
      txAppends s t (echoBytes s.par (receivedByte s.par v)) ∧
      t.txie = (s.txie || !(echoBytes s.par (receivedByte s.par v)).isEmpty) ∧
      t.lineReadyCounter = s.lineReadyCounter ∧ t.haltOutput = s.haltOutput ∧ t.eraseBacklog = s.eraseBacklog

/-- R141, R142: an `NL` that finds one free slot is stored and echoed, and counted in `LineReadyCounter` in canonical mode
only. -/
def Obligations.NewlineAdmitted : Prop :=
  ∀ (s : State) (v : Byte), s.started = true → shapeOk s → wellFormed s.par (.rxNl v) = true →
    1 ≤ ringFree s.par.nRx s.rxbuf →
    ∃ t, exec (.rxNl v) s = .next t ∧ rxKeeps s t ∧
      rxResident t.core = rxResident s.core ++ [s.par.nl] ∧ rxSlot t.core s.rxbuf.tail = s.par.nl ∧
      (∀ a, a < s.par.nRx → a ≠ s.rxbuf.tail → rxSlot t.core a = rxSlot s.core a) ∧
      txAppends s t (echoBytes s.par s.par.nl) ∧
      t.txie = (s.txie || !(echoBytes s.par s.par.nl).isEmpty) ∧
      t.lineReadyCounter =
        (if s.par.cfg.canonical = true then s.lineReadyCounter + 1 else s.lineReadyCounter) ∧
      t.haltOutput = s.haltOutput ∧ t.eraseBacklog = s.eraseBacklog

/-- R143: a byte without room is lost; with `bell` a `BEL` is enqueued, best-effort, and nothing else changes. -/
def Obligations.ByteWithoutRoomRingsBell : Prop :=
  ∀ (s : State) (v : Byte) (i : Instr), s.started = true → shapeOk s → wellFormed s.par i = true →
    (i = .rxOrd v ∧ ringFree s.par.nRx s.rxbuf < (if s.par.cfg.canonical = true then 2 else 1) ∨
      i = .rxNl v ∧ ringFree s.par.nRx s.rxbuf < 1) →
    ∃ t, exec i s = .next t ∧ rxKeeps s t ∧ t.rxbuf = s.rxbuf ∧
      txAppends s t (if s.par.cfg.bell = true then [s.par.bel] else []) ∧
      t.txie = (s.txie || s.par.cfg.bell) ∧
      t.lineReadyCounter = s.lineReadyCounter ∧ t.haltOutput = s.haltOutput ∧ t.eraseBacklog = s.eraseBacklog

/-- R138, R160 to R162: erase, by `erase_code` or by `BS`, removes the newest byte of the current line, never an `NL`, and
accounts for it; on an empty line nothing changes. -/
def Obligations.EraseRemovesNewestCharacter : Prop :=
  ∀ (s : State) (v : Byte), s.started = true → shapeOk s →
    backlogRoom (columnsOwed s.par false (eraseRemoves s.par (rxResident s.core))) s →
    (wellFormed s.par (.rxErase v) = true →
      ∃ t, exec (.rxErase v) s = .next t ∧
        erasedOutcome s t false s.par.cfg.eraseCode (eraseLeaves s.par (rxResident s.core))
          (eraseRemoves s.par (rxResident s.core))) ∧
    (wellFormed s.par (.rxEraseBs v) = true →
      ∃ t, exec (.rxEraseBs v) s = .next t ∧
        erasedOutcome s t false s.par.bs (eraseLeaves s.par (rxResident s.core)) (eraseRemoves s.par (rxResident s.core)))

/-- R139, R163: kill removes every byte after the newest `NL` and accounts for each under `echok`. -/
def Obligations.KillEmptiesCurrentLine : Prop :=
  ∀ (s : State) (v : Byte), s.started = true → shapeOk s → wellFormed s.par (.rxKill v) = true →
    backlogRoom (columnsOwed s.par true (sweepRemoves s.par .none (rxResident s.core))) s →
    ∃ t, exec (.rxKill v) s = .next t ∧
      erasedOutcome s t true s.par.cfg.killCode (sweepLeaves s.par .none (rxResident s.core))
        (sweepRemoves s.par .none (rxResident s.core))

/-- R140, R164: word-erase removes the trailing spaces of the current line, then its last run of other bytes. -/
def Obligations.WordEraseRemovesLastWord : Prop :=
  ∀ (s : State) (v : Byte), s.started = true → shapeOk s → wellFormed s.par (.rxWerase v) = true →
    backlogRoom (columnsOwed s.par false (weraseRemoves s.par (rxResident s.core))) s →
    ∃ t, exec (.rxWerase v) s = .next t ∧
      erasedOutcome s t false s.par.cfg.weraseCode (weraseLeaves s.par (rxResident s.core))
        (weraseRemoves s.par (rxResident s.core))

/-- R27, R162 (c), U2: an erase, kill or word-erase faults exactly when the columns it owes do not fit `EraseBacklog`. -/
def Obligations.BacklogOverflowFaults : Prop :=
  ∀ (s : State) (v : Byte), s.started = true → shapeOk s → backlogOk s →
    (wellFormed s.par (.rxErase v) = true →
      (exec (.rxErase v) s = .fault .eraseBacklogOverflow ↔
        ¬ backlogRoom (columnsOwed s.par false (eraseRemoves s.par (rxResident s.core))) s)) ∧
    (wellFormed s.par (.rxEraseBs v) = true →
      (exec (.rxEraseBs v) s = .fault .eraseBacklogOverflow ↔
        ¬ backlogRoom (columnsOwed s.par false (eraseRemoves s.par (rxResident s.core))) s)) ∧
    (wellFormed s.par (.rxKill v) = true →
      (exec (.rxKill v) s = .fault .eraseBacklogOverflow ↔
        ¬ backlogRoom (columnsOwed s.par true (sweepRemoves s.par .none (rxResident s.core))) s)) ∧
    (wellFormed s.par (.rxWerase v) = true →
      (exec (.rxWerase v) s = .fault .eraseBacklogOverflow ↔
        ¬ backlogRoom (columnsOwed s.par false (weraseRemoves s.par (rxResident s.core))) s))

/-- R224: no event faults but for the backlog overflow of an erase, kill or word-erase in canonical mode. -/
def Obligations.OnlyEraseEventsFault : Prop :=
  ∀ (i : Instr) (s : State) (f : Fault), exec i s = .fault f →
    f = .eraseBacklogOverflow ∧ s.started = true ∧ s.par.cfg.canonical = true ∧
      ∃ v, (i = .rx v ∨ i = .rxErase v ∨ i = .rxEraseBs v ∨ i = .rxKill v ∨ i = .rxWerase v) ∧
        (decodeRxByte s.par v = .rxErase v ∨ decodeRxByte s.par v = .rxEraseBs v ∨
          decodeRxByte s.par v = .rxKill v ∨ decodeRxByte s.par v = .rxWerase v)

/-- Every `RX` event of a started core completes while `EraseBacklog` has room for two columns a resident byte, with the
effect of the row its byte selects (R130, R146). -/
def Obligations.ReceiveEventCompletes : Prop :=
  ∀ (s : State) (v : Byte), s.started = true → shapeOk s → backlogRoom (2 * (rxResident s.core).length) s →
    ∃ t, exec (.rx v) s = .next t ∧ exec (decodeRxByte s.par v) s = .next t ∧ rxKeeps s t

/-- R146: one `RX` event adds at most 2 bytes to `TXBUF`, 1 to `RXBUF`, 1 to `LineReadyCounter` and `2 * (N_RX - 2)` units to
`EraseBacklog`. -/
def Obligations.ReceiveEventBounds : Prop :=
  ∀ (s t : State) (v : Byte), shapeOk s → lineRoomOk s → exec (.rx v) s = .next t →
    (txResident t.core).length ≤ (txResident s.core).length + 2 ∧
      (rxResident t.core).length ≤ (rxResident s.core).length + 1 ∧
      t.lineReadyCounter.toNat ≤ s.lineReadyCounter.toNat + 1 ∧
      t.eraseBacklog ≤ s.eraseBacklog + 2 * (s.par.nRx - 2)

/-- R130, R234: no `RX` event, nor a row of one, writes a `head` cursor, `EraseState`, `PendingLineFeed`, `OUT`, `RDLOG`, the
`WR` results or the parameters. -/
def Obligations.ReceiveEventOwnership : Prop :=
  ∀ (i : Instr) (s t : State) (v : Byte), (i = .rx v ∨ encode i = .rxByte v) → exec i s = .next t → rxKeeps s t

/-- R87, R145, R162: with `echo` set, `Echo` of a byte other than `NL` makes as many bytes as the columns an erase of it owes;
a control byte leaves as `CARET` and the byte with bit 6 changed. -/
def Obligations.EchoWidthIsColumnsOwed : Prop :=
  ∀ (p : Params) (b : Byte), p.cfg.echo = true → b ≠ p.nl →
    (echoBytes p b).length = columns p b ∧
      (p.cfg.echoctl = true → isCtl b = true → echoBytes p b = [p.caret, b ^^^ 0x40])

/-! ### The transmit engine -/

/-- The steps of R188 and the decode of R94 are one machine: a firing is the branch its key selects. A branch the key does not
select is refused (log 12). -/
def Obligations.FiringRunsSelectedBranch : Prop :=
  (∀ s : State, exec .txrdy s = exec (decodeTxKey (txKey s.core)) s) ∧
  (∀ (s : State) (k : TxKey) (i : Instr), s.started = true → s.txie = true → encode i = .txKey k →
    i ≠ decodeTxKey (txKey s.core) → exec i s = .refused .rowNotSelected)

/-- R180: while `TXIE == 0` no firing occurs, whatever else the state holds. -/
def Obligations.FiringNeedsInterruptEnabled : Prop :=
  ∀ (s : State) (k : TxKey) (i : Instr), s.started = true → s.txie = false → (i = .txrdy ∨ encode i = .txKey k) →
    exec i s = .refused .txrdyNotEnabled

/-- R181: while halted a firing clears `TXIE`, sends nothing and changes nothing else. -/
def Obligations.HaltedFiringOnlyDisables : Prop :=
  ∀ s : State, s.started = true → s.txie = true → s.haltOutput = true →
    exec .txHalt s = .next { s with txie := false } ∧ exec .txrdy s = .next { s with txie := false }

/-- R182: a pending line feed is sent before anything else, unmapped, and cleared. -/
def Obligations.PendingLineFeedIsSent : Prop :=
  ∀ s : State, s.started = true → s.txie = true → s.haltOutput = false → s.pendingLineFeed = true →
    exec .txLf s = .next { s with out := s.out ++ [s.par.nl], pendingLineFeed := false } ∧
      exec .txrdy s = .next { s with out := s.out ++ [s.par.nl], pendingLineFeed := false }

/-- R183, R184: with a backlog and no replay in progress, one unit is taken and the first `BS` is sent in the same firing. -/
def Obligations.ReplayStartsWithBackspace : Prop :=
  ∀ s : State, s.started = true → s.txie = true → s.haltOutput = false → s.pendingLineFeed = false →
    s.eraseState = .idle → 0 < s.eraseBacklog →
    exec .txErase0 s = .next { s with out := s.out ++ [s.par.bs], eraseState := .sendSpace, eraseBacklog := s.eraseBacklog - 1 } ∧
      exec .txrdy s = .next { s with out := s.out ++ [s.par.bs], eraseState := .sendSpace, eraseBacklog := s.eraseBacklog - 1 }

/-- R184's table: the byte a replay in progress sends, and its next sub-state. -/
def Obligations.ReplayContinues : Prop :=
  ∀ s : State, s.started = true → s.txie = true → s.haltOutput = false → s.pendingLineFeed = false →
    (s.eraseState = .sendBackspace1 →
      exec .txErasen s = .next { s with out := s.out ++ [s.par.bs], eraseState := .sendSpace } ∧
        exec .txrdy s = .next { s with out := s.out ++ [s.par.bs], eraseState := .sendSpace }) ∧
    (s.eraseState = .sendSpace →
      exec .txErasen s = .next { s with out := s.out ++ [s.par.sp], eraseState := .sendBackspace2 } ∧
        exec .txrdy s = .next { s with out := s.out ++ [s.par.sp], eraseState := .sendBackspace2 }) ∧
    (s.eraseState = .sendBackspace2 →
      exec .txErasen s = .next { s with out := s.out ++ [s.par.bs], eraseState := .idle } ∧
        exec .txrdy s = .next { s with out := s.out ++ [s.par.bs], eraseState := .idle })

/-- R185, R186: with no other work the oldest byte `w` of `TXBUF` is dequeued and the first byte of its mapped form is sent;
`PendingLineFeed` is set where the form has a second. Nothing else changes, no slot is written, `TXIE` stays. -/
def Obligations.DataByteIsMappedAndSent : Prop :=
  ∀ (s : State) (w : Byte) (rest : List Byte), s.started = true → shapeOk s → s.txie = true → s.haltOutput = false →
    s.pendingLineFeed = false → s.eraseState = .idle → s.eraseBacklog = 0 → txResident s.core = w :: rest →
    ∃ t b, exec .txData s = .next t ∧ exec .txrdy s = .next t ∧ txKeeps s t ∧ txSlotsKept s t ∧
      txResident t.core = rest ∧ t.out = s.out ++ [b] ∧
      ((s.par.cfg.ocrnl = true ∧ w = s.par.cr ∧ b = s.par.nl ∧ t.pendingLineFeed = false) ∨
        (¬(s.par.cfg.ocrnl = true ∧ w = s.par.cr) ∧ s.par.cfg.onlcr = true ∧ w = s.par.nl ∧ b = s.par.cr ∧
          t.pendingLineFeed = true) ∨
        (¬(s.par.cfg.ocrnl = true ∧ w = s.par.cr) ∧ ¬(s.par.cfg.onlcr = true ∧ w = s.par.nl) ∧ b = w ∧
          t.pendingLineFeed = false)) ∧
      t.eraseState = s.eraseState ∧ t.eraseBacklog = s.eraseBacklog ∧ t.txie = s.txie

/-- R187: with no work left a firing clears `TXIE` and sends nothing. -/
def Obligations.IdleFiringOnlyDisables : Prop :=
  ∀ s : State, s.started = true → s.txie = true → s.haltOutput = false → workOutstanding s.core = false →
    exec .txIdle s = .next { s with txie := false } ∧ exec .txrdy s = .next { s with txie := false }

/-- R189: a firing sends at most one byte: none in the branches `TX.HALT` and `TX.IDLE`, exactly one in every other. -/
def Obligations.FiringSendsAtMostOneByte : Prop :=
  ∀ s t : State, exec .txrdy s = .next t →
    if decodeTxKey (txKey s.core) = .txHalt ∨ decodeTxKey (txKey s.core) = .txIdle then t.out = s.out
    else ∃ b, t.out = s.out ++ [b]

/-- R188, R234: no firing, nor a branch of one, writes `RXBUF`, `TXBUF.tail`, a storage, `LineReadyCounter`, `HaltOutput`, the
results given to the host or the parameters. -/
def Obligations.FiringOwnership : Prop :=
  ∀ (i : Instr) (s t : State) (k : TxKey), (i = .txrdy ∨ encode i = .txKey k) → exec i s = .next t → txKeeps s t

/-- R191, R68: with output not halted, `TXIE == 1` and no other event, the engine sends exactly the owed bytes, in their
order, one a firing, and one more firing disables the interrupt. -/
def Obligations.OwedWorkIsSentInOrder : Prop :=
  ∀ s : State, s.started = true → shapeOk s → s.haltOutput = false → s.txie = true →
    (owedBytes s.core).length =
        s.pendingLineFeed.toNat + (replayRest s.par s.eraseState).length + 3 * s.eraseBacklog +
          (txResident s.core).length +
          (txResident s.core).countP (fun w =>
            decide (¬(s.par.cfg.ocrnl = true ∧ w = s.par.cr) ∧ s.par.cfg.onlcr = true ∧ w = s.par.nl)) ∧
    ∃ u t, firings (owedBytes s.core).length s = .next u ∧ u.out = s.out ++ owedBytes s.core ∧ u.txie = true ∧
      firings ((owedBytes s.core).length + 1) s = .next t ∧ t.out = s.out ++ owedBytes s.core ∧ t.txie = false ∧
      workOutstanding t.core = false

/-- R228: while output is halted nothing is sent, and it stays halted, over any sequence of events without a `RESET` and
without a received byte that selects `RX.XON`. -/
def Obligations.HaltedCoreSendsNothing : Prop :=
  ∀ (is : List Instr) (s t : State), s.haltOutput = true →
    (∀ i ∈ is, i ≠ .reset ∧ ∀ v, i = .rx v ∨ i = .rxXon v → decodeRxByte s.par v ≠ .rxXon v) →
    runEvents is s = .next t → t.haltOutput = true ∧ t.out = s.out

/-! ### The host port -/

/-- R200, R201, R207: `RD` behind the read gate returns and removes the oldest byte of `RXBUF`, giving up a line where it takes
an `NL` in canonical mode; outside the gate it returns `empty` and changes nothing but `RDLOG`. -/
def Obligations.ReadReturnsOldestByte : Prop :=
  ∀ s : State, s.started = true → shapeOk s →
    (∀ (v : Byte) (rest : List Byte), rxResident s.core = v :: rest →
      (s.par.cfg.canonical = true → s.lineReadyCounter ≠ 0) →
      exec .rd s = .next { s with
          rxbuf := { s.rxbuf with head := cursorNext s.par.nRx s.rxbuf.head }
          lineReadyCounter :=
            if s.par.cfg.canonical = true ∧ v = s.par.nl then s.lineReadyCounter - 1 else s.lineReadyCounter
          rdlog := s.rdlog ++ [.byte v] } ∧
        resident .rx s.par.nRx { s.rxbuf with head := cursorNext s.par.nRx s.rxbuf.head } = rest) ∧
    ((s.par.cfg.canonical = true ∧ s.lineReadyCounter = 0 ∨ rxResident s.core = []) →
      exec .rd s = .next { s with rdlog := s.rdlog ++ [.empty] })

/-- R202, R144: `WR w` stores `w` in the put slot of `TXBUF` and returns `ok`, or finds it full and returns `full`; `TXIE`
becomes 1 in both cases and nothing else changes. The result is kept in `wrlog` (log 14). -/
def Obligations.WriteEnqueuesByte : Prop :=
  ∀ (s : State) (w : Byte), s.started = true → shapeOk s →
    (ringFree s.par.nTx s.txbuf = 0 →
      exec (.wr w) s = .next { s with txie := true, wrlog := s.wrlog ++ [.full] }) ∧
    (0 < ringFree s.par.nTx s.txbuf →
      ∃ r, exec (.wr w) s = .next { s with txbuf := r, txie := true, wrlog := s.wrlog ++ [.ok] } ∧
        resident .tx s.par.nTx r = txResident s.core ++ [w] ∧ r.head = s.txbuf.head ∧
        r.tail = cursorNext s.par.nTx s.txbuf.tail ∧
        (∀ a, a < s.par.nTx → slotByte .tx s.par.nTx r a = if a = s.txbuf.tail then w else txSlot s.core a))

/-- R206: in canonical mode a byte is read only while an `NL` is resident, so no byte of an unterminated line is. -/
def Obligations.CanonicalReadStopsAtNewline : Prop :=
  ∀ (s t : State) (v : Byte), shapeOk s → lineCountOk s → s.par.cfg.canonical = true →
    exec .rd s = .next t → t.rdlog = s.rdlog ++ [.byte v] →
    s.par.nl ∈ rxResident s.core ∧ (rxResident s.core).head? = some v

/-- R203: the blocking `read` returns as soon as a poll does, whatever events would have come while it waited. -/
def Obligations.BlockingReadReturnsReadyByte : Prop :=
  ∀ (s : State) (waits : List (List Instr)) (v : Byte) (rest : List Byte), s.started = true → shapeOk s →
    (s.par.cfg.canonical = true → s.lineReadyCounter ≠ 0) → rxResident s.core = v :: rest →
    ∃ t, exec .rd s = .next t ∧ blockingRead waits s = .next (some v, t)

/-! ### The ring buffer -/

/-- R117: `put` then `unput`, `unput` then `put`, which cursors move, how `count` changes, and that cursors stay slot
indices. -/
def Obligations.RingPutUnputLaws : Prop :=
  ∀ (id : BufId) (n : Nat) (r : Ring) (v : Byte), ringOk n r →
    ((ringPut n r v).1 = .ok →
      (ringUnput id n (ringPut n r v).2).1 = .byte v ∧
        (ringUnput id n (ringPut n r v).2).2.head = r.head ∧ (ringUnput id n (ringPut n r v).2).2.tail = r.tail ∧
        ringCount n (ringPut n r v).2 = ringCount n r + 1) ∧
    ((ringUnput id n r).1 = .byte v →
      (ringPut n (ringUnput id n r).2 v).1 = .ok ∧ (ringPut n (ringUnput id n r).2 v).2.head = r.head ∧
        (ringPut n (ringUnput id n r).2 v).2.tail = r.tail ∧
        (∀ a, slotByte id n (ringPut n (ringUnput id n r).2 v).2 a = slotByte id n r a) ∧
        ringCount n (ringUnput id n r).2 + 1 = ringCount n r) ∧
    ((ringGet id n r).1 = .byte v → ringCount n (ringGet id n r).2 + 1 = ringCount n r) ∧
    ((ringPut n r v).1 = .full → (ringPut n r v).2 = r) ∧
    ((ringGet id n r).1 = .empty → (ringGet id n r).2 = r) ∧
    ((ringUnput id n r).1 = .empty → (ringUnput id n r).2 = r) ∧
    (ringGet id n r).2.tail = r.tail ∧ (ringPut n r v).2.head = r.head ∧ (ringUnput id n r).2.head = r.head ∧
    (ringPut n r v).2.tail < n ∧ (ringGet id n r).2.head < n ∧ (ringUnput id n r).2.tail < n

/-- R67, R110 to R112: a ring buffer of capacity `n` is a queue of at most `n - 1` bytes whose newest byte can be taken back,
and every operation keeps the form of R23 to R25. -/
def Obligations.RingRefinesBoundedQueue : Prop :=
  ∀ (id : BufId) (n : Nat) (r : Ring), ringOk n r →
    (∀ v, if (resident id n r).length < n - 1 then
        (ringPut n r v).1 = .ok ∧ resident id n (ringPut n r v).2 = resident id n r ++ [v]
      else ringPut n r v = (.full, r)) ∧
    (resident id n r = [] → ringGet id n r = (.empty, r) ∧ ringUnput id n r = (.empty, r)) ∧
    (∀ w l, resident id n r = w :: l → (ringGet id n r).1 = .byte w ∧ resident id n (ringGet id n r).2 = l) ∧
    (∀ w l, resident id n r = l ++ [w] → (ringUnput id n r).1 = .byte w ∧ resident id n (ringUnput id n r).2 = l) ∧
    (∀ v, ringOk n (ringPut n r v).2) ∧ ringOk n (ringGet id n r).2 ∧ ringOk n (ringUnput id n r).2

/-- R116: from empty, `N - 1` `put`s return `ok` and the next returns `full`. -/
def Obligations.RingAcceptsCapacityMinusOne : Prop :=
  ∀ (id : BufId) (n : Nat) (r : Ring) (vs : List Byte) (v : Byte), ringOk n r → r.head = r.tail → vs.length = n - 1 →
    (∀ k, k < vs.length →
      (ringPut n ((vs.take k).foldl (fun q w => (ringPut n q w).2) r) (vs.getD k 0)).1 = .ok) ∧
    resident id n (vs.foldl (fun q w => (ringPut n q w).2) r) = vs ∧
    (ringPut n (vs.foldl (fun q w => (ringPut n q w).2) r) v).1 = .full

/-! ### Invariants -/

/-- The invariants hold right after reset (the model's launch profile, log 4) and of a core not yet started. -/
def Obligations.ResetStateMeetsInvariants : Prop :=
  Inv State.reset ∧ ∀ p : Params, Inv (State.powerUp p)

/-- Every step keeps the parameters launchable, the cursors slot indices and the storages in canonical form (R23 to R25, R60,
R223). -/
def Obligations.StepKeepsShape : Prop :=
  ∀ s t : State, shapeOk s → step s = .next t → shapeOk t

/-- Every step keeps every resident slot written, so no unspecified byte is ever read (R64). -/
def Obligations.StepKeepsResidentWritten : Prop :=
  ∀ s t : State, shapeOk s → writtenOk s → step s = .next t → writtenOk t

/-- Every step keeps `LineReadyCounter` the number of resident `NL`s in canonical mode, and 0 in raw mode (R26). -/
def Obligations.StepKeepsLineCount : Prop :=
  ∀ s t : State, shapeOk s → lineCountOk s → step s = .next t → lineCountOk t

/-- Every step keeps the current line within `N_RX - 2` bytes in canonical mode (R141). -/
def Obligations.StepKeepsLineRoom : Prop :=
  ∀ s t : State, shapeOk s → lineRoomOk s → step s = .next t → lineRoomOk t

/-- Every step keeps `EraseBacklog` within its width (R27), `EraseState` other than `SendBackspace1` (R28) and `HaltOutput` 0
without flow control (R48). -/
def Obligations.StepKeepsRegisterRanges : Prop :=
  ∀ s t : State, backlogOk s → replayOk s → haltOk s → step s = .next t → backlogOk t ∧ replayOk t ∧ haltOk t

/-- R192: after every event, if output is not halted and work is outstanding then `TXIE == 1`. -/
def Obligations.StepStrandsNothing : Prop :=
  ∀ s t : State, nothingStranded s → step s = .next t → nothingStranded t

/-- All the invariants together hold along every run from any state that has them. -/
def Obligations.RunKeepsInvariants : Prop :=
  ∀ (k : Nat) (s t : State), Inv s → Sys2Proof.core.run k s = .next t → Inv t
end

