-- ==== Sys2Proof/Laws/Memory.lean ====
section
/-!
SUPPORT. The laws of a storage: read after write, the canonical form kept by every operation over it (R60 to R64).
-/

namespace Sys2Proof.Machine

/-! ### Read after write -/

@[simp] theorem memRead_memWrite_same (m : List Host.Cell) (i : Nat) (v : Byte) :
    memRead (memWrite m i v) i = some v := by
  induction m with
  | nil => simp [memWrite, memRead]
  | cons c rest ih =>
    obtain ⟨j, w⟩ := c
    simp only [memWrite]
    split
    · simp [memRead]
    · split
      · simp [memRead]
      · rename_i h
        have h' : j ≠ i := fun e => h e.symm
        simp [memRead, h', ih]

@[simp] theorem memRead_memWrite_other (m : List Host.Cell) {i a : Nat} (v : Byte) (h : a ≠ i) :
    memRead (memWrite m i v) a = memRead m a := by
  have hi : i ≠ a := fun e => h e.symm
  induction m with
  | nil => simp [memWrite, memRead, hi]
  | cons c rest ih =>
    obtain ⟨j, w⟩ := c
    simp only [memWrite]
    split
    · simp [memRead, hi]
    · split
      · subst_vars
        simp [memRead, hi]
      · simp only [memRead, ih]

/-! ### The canonical form -/

theorem risingFrom_mono {lo lo' : Nat} {m : List Host.Cell} (h : risingFrom lo m = true) (hl : lo' ≤ lo) :
    risingFrom lo' m = true := by
  cases m with
  | nil => rfl
  | cons c rest =>
    simp only [risingFrom, Bool.and_eq_true, decide_eq_true_eq] at h ⊢
    exact ⟨le_trans hl h.1, h.2⟩

theorem risingFrom_memWrite {lo : Nat} {m : List Host.Cell} {i : Nat} (v : Byte) (h : risingFrom lo m = true)
    (hi : lo ≤ i) : risingFrom lo (memWrite m i v) = true := by
  induction m generalizing lo with
  | nil => simp [memWrite, risingFrom, hi]
  | cons c rest ih =>
    obtain ⟨j, w⟩ := c
    simp only [risingFrom, Bool.and_eq_true, decide_eq_true_eq] at h
    simp only [memWrite]
    split
    · rename_i hij
      simp only [risingFrom, Bool.and_eq_true, decide_eq_true_eq]
      exact ⟨hi, hij, h.2⟩
    · split
      · rename_i hij
        subst hij
        simp only [risingFrom, Bool.and_eq_true, decide_eq_true_eq]
        exact ⟨hi, h.2⟩
      · simp only [risingFrom, Bool.and_eq_true, decide_eq_true_eq]
        exact ⟨h.1, ih h.2 (by omega)⟩

/-- A write keeps the canonical form. -/
theorem memWrite_wf {m : List Host.Cell} (i : Nat) (v : Byte) (h : Memory.wf m = true) :
    Memory.wf (memWrite m i v) = true :=
  risingFrom_memWrite v h (Nat.zero_le i)

/-- A write to a slot of the storage keeps every listed slot within it. -/
theorem slotsBelow_memWrite {n : Nat} {m : List Host.Cell} {i : Nat} (v : Byte) (h : slotsBelow n m = true)
    (hi : i < n) : slotsBelow n (memWrite m i v) = true := by
  induction m with
  | nil => simp [memWrite, slotsBelow, hi]
  | cons c rest ih =>
    obtain ⟨j, w⟩ := c
    simp only [slotsBelow, List.all_cons, Bool.and_eq_true, decide_eq_true_eq] at h
    simp only [memWrite]
    split
    · simp only [slotsBelow, List.all_cons, Bool.and_eq_true, decide_eq_true_eq]
      exact ⟨hi, h.1, h.2⟩
    · split
      · simp only [slotsBelow, List.all_cons, Bool.and_eq_true, decide_eq_true_eq]
        exact ⟨hi, h.2⟩
      · simp only [slotsBelow, List.all_cons, Bool.and_eq_true, decide_eq_true_eq] at ih ⊢
        exact ⟨h.1, ih h.2⟩

/-- An empty storage has the canonical form; `State.reset` lists nothing. -/
theorem memory_wf_nil : Memory.wf [] = true := rfl

/-- The memory of the state after reset has the canonical form. -/
theorem reset_memory_wf :
    Memory.wf State.reset.rxbuf.storage = true ∧ Memory.wf State.reset.txbuf.storage = true := ⟨rfl, rfl⟩

/-! ### The ring operations keep it -/

theorem ringPut_wf {n : Nat} {r : Ring} (v : Byte) (h : Memory.wf r.storage = true) :
    Memory.wf (ringPut n r v).2.storage = true := by
  unfold ringPut
  split
  · exact h
  · exact memWrite_wf _ v h

theorem ringGet_wf {id : BufId} {n : Nat} {r : Ring} (h : Memory.wf r.storage = true) :
    Memory.wf (ringGet id n r).2.storage = true := by
  unfold ringGet
  split <;> exact h

theorem ringUnput_wf {id : BufId} {n : Nat} {r : Ring} (h : Memory.wf r.storage = true) :
    Memory.wf (ringUnput id n r).2.storage = true := by
  unfold ringUnput
  split <;> exact h

/-- `RESET` leaves the storages as they are (R250), so it keeps the form. -/
theorem resetRegisters_wf {p : Params} {s : CoreState} (h : Memory.wf s.rxbuf.storage = true) :
    Memory.wf (resetRegisters p s).rxbuf.storage = true := h

end Sys2Proof.Machine
end

