-- ==== Sys2Proof/Laws/Ring.lean ====
section
/-!
SUPPORT. One lemma per ring operation that says everything it can do (R110 to R112), and the arithmetic of cursors (R62).
-/

namespace Sys2Proof.Machine

/-! ### Cursors -/

theorem cursorNext_lt {n c : Nat} (h : 0 < n) : cursorNext n c < n := Nat.mod_lt _ h

theorem cursorPrev_lt {n c : Nat} (h : 0 < n) : cursorPrev n c < n := Nat.mod_lt _ h

theorem ringCount_lt {n : Nat} {r : Ring} (h : 0 < n) : ringCount n r < n := Nat.mod_lt _ h

/-- A cursor stepping on is one more, or 0 past the last slot (R62). -/
theorem cursorNext_eq {n c : Nat} (h : c < n) : cursorNext n c = if c + 1 = n then 0 else c + 1 := by
  unfold cursorNext
  split
  · rename_i e
    rw [e, Nat.mod_self]
  · exact Nat.mod_eq_of_lt (by omega)

/-- A cursor stepping back is one less, or the last slot below 0 (R62). -/
theorem cursorPrev_eq {n c : Nat} (h : c < n) : cursorPrev n c = if c = 0 then n - 1 else c - 1 := by
  unfold cursorPrev
  split
  · rename_i e
    rw [e, Nat.zero_add]
    exact Nat.mod_eq_of_lt (by omega)
  · rw [show c + (n - 1) = (c - 1) + n by omega, Nat.add_mod_right]
    exact Nat.mod_eq_of_lt (by omega)

/-- `count` without the modulus (R25). -/
theorem ringCount_eq {n : Nat} {r : Ring} (hh : r.head < n) (ht : r.tail < n) :
    ringCount n r = if r.head ≤ r.tail then r.tail - r.head else r.tail + n - r.head := by
  unfold ringCount
  split
  · rw [show r.tail + n - r.head = (r.tail - r.head) + n by omega, Nat.add_mod_right]
    exact Nat.mod_eq_of_lt (by omega)
  · exact Nat.mod_eq_of_lt (by omega)

theorem ringIsEmpty_iff {r : Ring} : ringIsEmpty r = true ↔ r.head = r.tail := by simp [ringIsEmpty]

theorem ringIsFull_iff {n : Nat} {r : Ring} : ringIsFull n r = true ↔ cursorNext n r.tail = r.head := by
  simp [ringIsFull]

/-! ### Operations -/

/-- Everything `put` can do (R110). -/
theorem ringPut_cases (n : Nat) (r : Ring) (v : Byte) :
    (cursorNext n r.tail = r.head ∧ ringPut n r v = (.full, r)) ∨
    (cursorNext n r.tail ≠ r.head ∧
      ringPut n r v = (.ok, { r with storage := memWrite r.storage (r.tail % n) v, tail := cursorNext n r.tail })) := by
  by_cases h : cursorNext n r.tail = r.head
  · exact .inl ⟨h, by simp [ringPut, ringIsFull, h]⟩
  · exact .inr ⟨h, by simp [ringPut, ringIsFull, h]⟩

/-- Everything `get` can do (R111). -/
theorem ringGet_cases (id : BufId) (n : Nat) (r : Ring) :
    (r.head = r.tail ∧ ringGet id n r = (.empty, r)) ∨
    (r.head ≠ r.tail ∧
      ringGet id n r = (.byte (slotByte id n r r.head), { r with head := cursorNext n r.head })) := by
  by_cases h : r.head = r.tail
  · exact .inl ⟨h, by simp [ringGet, ringIsEmpty, h]⟩
  · exact .inr ⟨h, by simp [ringGet, ringIsEmpty, h]⟩

/-- Everything `unput` can do (R112). -/
theorem ringUnput_cases (id : BufId) (n : Nat) (r : Ring) :
    (r.head = r.tail ∧ ringUnput id n r = (.empty, r)) ∨
    (r.head ≠ r.tail ∧
      ringUnput id n r = (.byte (slotByte id n r (cursorPrev n r.tail)), { r with tail := cursorPrev n r.tail })) := by
  by_cases h : r.head = r.tail
  · exact .inl ⟨h, by simp [ringUnput, ringIsEmpty, h]⟩
  · exact .inr ⟨h, by simp [ringUnput, ringIsEmpty, h]⟩

/-- `put` never changes `head`. -/
@[simp] theorem ringPut_head (n : Nat) (r : Ring) (v : Byte) : (ringPut n r v).2.head = r.head := by
  unfold ringPut; split <;> rfl

/-- `get` never changes `tail`. -/
@[simp] theorem ringGet_tail (id : BufId) (n : Nat) (r : Ring) : (ringGet id n r).2.tail = r.tail := by
  unfold ringGet; split <;> rfl

/-- `get` never changes the storage. -/
@[simp] theorem ringGet_storage (id : BufId) (n : Nat) (r : Ring) : (ringGet id n r).2.storage = r.storage := by
  unfold ringGet; split <;> rfl

/-- `unput` never changes `head`. -/
@[simp] theorem ringUnput_head (id : BufId) (n : Nat) (r : Ring) : (ringUnput id n r).2.head = r.head := by
  unfold ringUnput; split <;> rfl

/-- `unput` never changes the storage. -/
@[simp] theorem ringUnput_storage (id : BufId) (n : Nat) (r : Ring) : (ringUnput id n r).2.storage = r.storage := by
  unfold ringUnput; split <;> rfl

/-- What a slot reads as after a `put` that stored its byte. -/
theorem slotByte_memWrite (id : BufId) (n : Nat) (r : Ring) (t i c : Nat) (v : Byte) :
    slotByte id n { r with storage := memWrite r.storage i v, tail := t } c =
      if c % n = i then v else slotByte id n r c := by
  unfold slotByte
  split
  · rename_i h
    simp [h]
  · rename_i h
    simp [memRead_memWrite_other _ v h]

end Sys2Proof.Machine
end

