-- ==== Sys2Proof/Laws/State.lean ====
section
/-!
SUPPORT. One lemma per field per update of the state: what each writer of Machine/Flags.lean leaves in each field of the core,
and what each writer of the environment leaves in each field of the whole.
-/

namespace Sys2Proof.Machine

/-! ### setTxIrq -/

@[simp] theorem setTxIrq_par (e : Bool) (s : CoreState) : (setTxIrq e s).par = s.par := rfl
@[simp] theorem setTxIrq_rxbuf (e : Bool) (s : CoreState) : (setTxIrq e s).rxbuf = s.rxbuf := rfl
@[simp] theorem setTxIrq_txbuf (e : Bool) (s : CoreState) : (setTxIrq e s).txbuf = s.txbuf := rfl
@[simp] theorem setTxIrq_lineReadyCounter (e : Bool) (s : CoreState) : (setTxIrq e s).lineReadyCounter = s.lineReadyCounter := rfl
@[simp] theorem setTxIrq_eraseBacklog (e : Bool) (s : CoreState) : (setTxIrq e s).eraseBacklog = s.eraseBacklog := rfl
@[simp] theorem setTxIrq_eraseState (e : Bool) (s : CoreState) : (setTxIrq e s).eraseState = s.eraseState := rfl
@[simp] theorem setTxIrq_txie (e : Bool) (s : CoreState) : (setTxIrq e s).txie = e := rfl
@[simp] theorem setTxIrq_haltOutput (e : Bool) (s : CoreState) : (setTxIrq e s).haltOutput = s.haltOutput := rfl
@[simp] theorem setTxIrq_pendingLineFeed (e : Bool) (s : CoreState) : (setTxIrq e s).pendingLineFeed = s.pendingLineFeed := rfl
@[simp] theorem setTxIrq_out (e : Bool) (s : CoreState) : (setTxIrq e s).out = s.out := rfl
@[simp] theorem setTxIrq_rdlog (e : Bool) (s : CoreState) : (setTxIrq e s).rdlog = s.rdlog := rfl

/-! ### setHaltOutput -/

@[simp] theorem setHaltOutput_par (h : Bool) (s : CoreState) : (setHaltOutput h s).par = s.par := rfl
@[simp] theorem setHaltOutput_rxbuf (h : Bool) (s : CoreState) : (setHaltOutput h s).rxbuf = s.rxbuf := rfl
@[simp] theorem setHaltOutput_txbuf (h : Bool) (s : CoreState) : (setHaltOutput h s).txbuf = s.txbuf := rfl
@[simp] theorem setHaltOutput_lineReadyCounter (h : Bool) (s : CoreState) : (setHaltOutput h s).lineReadyCounter = s.lineReadyCounter := rfl
@[simp] theorem setHaltOutput_eraseBacklog (h : Bool) (s : CoreState) : (setHaltOutput h s).eraseBacklog = s.eraseBacklog := rfl
@[simp] theorem setHaltOutput_eraseState (h : Bool) (s : CoreState) : (setHaltOutput h s).eraseState = s.eraseState := rfl
@[simp] theorem setHaltOutput_txie (h : Bool) (s : CoreState) : (setHaltOutput h s).txie = s.txie := rfl
@[simp] theorem setHaltOutput_haltOutput (h : Bool) (s : CoreState) : (setHaltOutput h s).haltOutput = h := rfl
@[simp] theorem setHaltOutput_pendingLineFeed (h : Bool) (s : CoreState) : (setHaltOutput h s).pendingLineFeed = s.pendingLineFeed := rfl
@[simp] theorem setHaltOutput_out (h : Bool) (s : CoreState) : (setHaltOutput h s).out = s.out := rfl
@[simp] theorem setHaltOutput_rdlog (h : Bool) (s : CoreState) : (setHaltOutput h s).rdlog = s.rdlog := rfl

/-! ### setPendingLineFeed -/

@[simp] theorem setPendingLineFeed_par (f : Bool) (s : CoreState) : (setPendingLineFeed f s).par = s.par := rfl
@[simp] theorem setPendingLineFeed_rxbuf (f : Bool) (s : CoreState) : (setPendingLineFeed f s).rxbuf = s.rxbuf := rfl
@[simp] theorem setPendingLineFeed_txbuf (f : Bool) (s : CoreState) : (setPendingLineFeed f s).txbuf = s.txbuf := rfl
@[simp] theorem setPendingLineFeed_lineReadyCounter (f : Bool) (s : CoreState) : (setPendingLineFeed f s).lineReadyCounter = s.lineReadyCounter := rfl
@[simp] theorem setPendingLineFeed_eraseBacklog (f : Bool) (s : CoreState) : (setPendingLineFeed f s).eraseBacklog = s.eraseBacklog := rfl
@[simp] theorem setPendingLineFeed_eraseState (f : Bool) (s : CoreState) : (setPendingLineFeed f s).eraseState = s.eraseState := rfl
@[simp] theorem setPendingLineFeed_txie (f : Bool) (s : CoreState) : (setPendingLineFeed f s).txie = s.txie := rfl
@[simp] theorem setPendingLineFeed_haltOutput (f : Bool) (s : CoreState) : (setPendingLineFeed f s).haltOutput = s.haltOutput := rfl
@[simp] theorem setPendingLineFeed_pendingLineFeed (f : Bool) (s : CoreState) : (setPendingLineFeed f s).pendingLineFeed = f := rfl
@[simp] theorem setPendingLineFeed_out (f : Bool) (s : CoreState) : (setPendingLineFeed f s).out = s.out := rfl
@[simp] theorem setPendingLineFeed_rdlog (f : Bool) (s : CoreState) : (setPendingLineFeed f s).rdlog = s.rdlog := rfl

/-! ### setEraseState -/

@[simp] theorem setEraseState_par (e : EraseState) (s : CoreState) : (setEraseState e s).par = s.par := rfl
@[simp] theorem setEraseState_rxbuf (e : EraseState) (s : CoreState) : (setEraseState e s).rxbuf = s.rxbuf := rfl
@[simp] theorem setEraseState_txbuf (e : EraseState) (s : CoreState) : (setEraseState e s).txbuf = s.txbuf := rfl
@[simp] theorem setEraseState_lineReadyCounter (e : EraseState) (s : CoreState) : (setEraseState e s).lineReadyCounter = s.lineReadyCounter := rfl
@[simp] theorem setEraseState_eraseBacklog (e : EraseState) (s : CoreState) : (setEraseState e s).eraseBacklog = s.eraseBacklog := rfl
@[simp] theorem setEraseState_eraseState (e : EraseState) (s : CoreState) : (setEraseState e s).eraseState = e := rfl
@[simp] theorem setEraseState_txie (e : EraseState) (s : CoreState) : (setEraseState e s).txie = s.txie := rfl
@[simp] theorem setEraseState_haltOutput (e : EraseState) (s : CoreState) : (setEraseState e s).haltOutput = s.haltOutput := rfl
@[simp] theorem setEraseState_pendingLineFeed (e : EraseState) (s : CoreState) : (setEraseState e s).pendingLineFeed = s.pendingLineFeed := rfl
@[simp] theorem setEraseState_out (e : EraseState) (s : CoreState) : (setEraseState e s).out = s.out := rfl
@[simp] theorem setEraseState_rdlog (e : EraseState) (s : CoreState) : (setEraseState e s).rdlog = s.rdlog := rfl

/-! ### setEraseBacklog -/

@[simp] theorem setEraseBacklog_par (n : Nat) (s : CoreState) : (setEraseBacklog n s).par = s.par := rfl
@[simp] theorem setEraseBacklog_rxbuf (n : Nat) (s : CoreState) : (setEraseBacklog n s).rxbuf = s.rxbuf := rfl
@[simp] theorem setEraseBacklog_txbuf (n : Nat) (s : CoreState) : (setEraseBacklog n s).txbuf = s.txbuf := rfl
@[simp] theorem setEraseBacklog_lineReadyCounter (n : Nat) (s : CoreState) : (setEraseBacklog n s).lineReadyCounter = s.lineReadyCounter := rfl
@[simp] theorem setEraseBacklog_eraseBacklog (n : Nat) (s : CoreState) : (setEraseBacklog n s).eraseBacklog = n := rfl
@[simp] theorem setEraseBacklog_eraseState (n : Nat) (s : CoreState) : (setEraseBacklog n s).eraseState = s.eraseState := rfl
@[simp] theorem setEraseBacklog_txie (n : Nat) (s : CoreState) : (setEraseBacklog n s).txie = s.txie := rfl
@[simp] theorem setEraseBacklog_haltOutput (n : Nat) (s : CoreState) : (setEraseBacklog n s).haltOutput = s.haltOutput := rfl
@[simp] theorem setEraseBacklog_pendingLineFeed (n : Nat) (s : CoreState) : (setEraseBacklog n s).pendingLineFeed = s.pendingLineFeed := rfl
@[simp] theorem setEraseBacklog_out (n : Nat) (s : CoreState) : (setEraseBacklog n s).out = s.out := rfl
@[simp] theorem setEraseBacklog_rdlog (n : Nat) (s : CoreState) : (setEraseBacklog n s).rdlog = s.rdlog := rfl

/-! ### setLineReadyCounter -/

@[simp] theorem setLineReadyCounter_par (n : BitVec 8) (s : CoreState) : (setLineReadyCounter n s).par = s.par := rfl
@[simp] theorem setLineReadyCounter_rxbuf (n : BitVec 8) (s : CoreState) : (setLineReadyCounter n s).rxbuf = s.rxbuf := rfl
@[simp] theorem setLineReadyCounter_txbuf (n : BitVec 8) (s : CoreState) : (setLineReadyCounter n s).txbuf = s.txbuf := rfl
@[simp] theorem setLineReadyCounter_lineReadyCounter (n : BitVec 8) (s : CoreState) : (setLineReadyCounter n s).lineReadyCounter = n := rfl
@[simp] theorem setLineReadyCounter_eraseBacklog (n : BitVec 8) (s : CoreState) : (setLineReadyCounter n s).eraseBacklog = s.eraseBacklog := rfl
@[simp] theorem setLineReadyCounter_eraseState (n : BitVec 8) (s : CoreState) : (setLineReadyCounter n s).eraseState = s.eraseState := rfl
@[simp] theorem setLineReadyCounter_txie (n : BitVec 8) (s : CoreState) : (setLineReadyCounter n s).txie = s.txie := rfl
@[simp] theorem setLineReadyCounter_haltOutput (n : BitVec 8) (s : CoreState) : (setLineReadyCounter n s).haltOutput = s.haltOutput := rfl
@[simp] theorem setLineReadyCounter_pendingLineFeed (n : BitVec 8) (s : CoreState) : (setLineReadyCounter n s).pendingLineFeed = s.pendingLineFeed := rfl
@[simp] theorem setLineReadyCounter_out (n : BitVec 8) (s : CoreState) : (setLineReadyCounter n s).out = s.out := rfl
@[simp] theorem setLineReadyCounter_rdlog (n : BitVec 8) (s : CoreState) : (setLineReadyCounter n s).rdlog = s.rdlog := rfl

/-! ### setRxbuf -/

@[simp] theorem setRxbuf_par (r : Ring) (s : CoreState) : (setRxbuf r s).par = s.par := rfl
@[simp] theorem setRxbuf_rxbuf (r : Ring) (s : CoreState) : (setRxbuf r s).rxbuf = r := rfl
@[simp] theorem setRxbuf_txbuf (r : Ring) (s : CoreState) : (setRxbuf r s).txbuf = s.txbuf := rfl
@[simp] theorem setRxbuf_lineReadyCounter (r : Ring) (s : CoreState) : (setRxbuf r s).lineReadyCounter = s.lineReadyCounter := rfl
@[simp] theorem setRxbuf_eraseBacklog (r : Ring) (s : CoreState) : (setRxbuf r s).eraseBacklog = s.eraseBacklog := rfl
@[simp] theorem setRxbuf_eraseState (r : Ring) (s : CoreState) : (setRxbuf r s).eraseState = s.eraseState := rfl
@[simp] theorem setRxbuf_txie (r : Ring) (s : CoreState) : (setRxbuf r s).txie = s.txie := rfl
@[simp] theorem setRxbuf_haltOutput (r : Ring) (s : CoreState) : (setRxbuf r s).haltOutput = s.haltOutput := rfl
@[simp] theorem setRxbuf_pendingLineFeed (r : Ring) (s : CoreState) : (setRxbuf r s).pendingLineFeed = s.pendingLineFeed := rfl
@[simp] theorem setRxbuf_out (r : Ring) (s : CoreState) : (setRxbuf r s).out = s.out := rfl
@[simp] theorem setRxbuf_rdlog (r : Ring) (s : CoreState) : (setRxbuf r s).rdlog = s.rdlog := rfl

/-! ### setTxbuf -/

@[simp] theorem setTxbuf_par (r : Ring) (s : CoreState) : (setTxbuf r s).par = s.par := rfl
@[simp] theorem setTxbuf_rxbuf (r : Ring) (s : CoreState) : (setTxbuf r s).rxbuf = s.rxbuf := rfl
@[simp] theorem setTxbuf_txbuf (r : Ring) (s : CoreState) : (setTxbuf r s).txbuf = r := rfl
@[simp] theorem setTxbuf_lineReadyCounter (r : Ring) (s : CoreState) : (setTxbuf r s).lineReadyCounter = s.lineReadyCounter := rfl
@[simp] theorem setTxbuf_eraseBacklog (r : Ring) (s : CoreState) : (setTxbuf r s).eraseBacklog = s.eraseBacklog := rfl
@[simp] theorem setTxbuf_eraseState (r : Ring) (s : CoreState) : (setTxbuf r s).eraseState = s.eraseState := rfl
@[simp] theorem setTxbuf_txie (r : Ring) (s : CoreState) : (setTxbuf r s).txie = s.txie := rfl
@[simp] theorem setTxbuf_haltOutput (r : Ring) (s : CoreState) : (setTxbuf r s).haltOutput = s.haltOutput := rfl
@[simp] theorem setTxbuf_pendingLineFeed (r : Ring) (s : CoreState) : (setTxbuf r s).pendingLineFeed = s.pendingLineFeed := rfl
@[simp] theorem setTxbuf_out (r : Ring) (s : CoreState) : (setTxbuf r s).out = s.out := rfl
@[simp] theorem setTxbuf_rdlog (r : Ring) (s : CoreState) : (setTxbuf r s).rdlog = s.rdlog := rfl

/-! ### send -/

@[simp] theorem send_par (v : Byte) (s : CoreState) : (send v s).par = s.par := rfl
@[simp] theorem send_rxbuf (v : Byte) (s : CoreState) : (send v s).rxbuf = s.rxbuf := rfl
@[simp] theorem send_txbuf (v : Byte) (s : CoreState) : (send v s).txbuf = s.txbuf := rfl
@[simp] theorem send_lineReadyCounter (v : Byte) (s : CoreState) : (send v s).lineReadyCounter = s.lineReadyCounter := rfl
@[simp] theorem send_eraseBacklog (v : Byte) (s : CoreState) : (send v s).eraseBacklog = s.eraseBacklog := rfl
@[simp] theorem send_eraseState (v : Byte) (s : CoreState) : (send v s).eraseState = s.eraseState := rfl
@[simp] theorem send_txie (v : Byte) (s : CoreState) : (send v s).txie = s.txie := rfl
@[simp] theorem send_haltOutput (v : Byte) (s : CoreState) : (send v s).haltOutput = s.haltOutput := rfl
@[simp] theorem send_pendingLineFeed (v : Byte) (s : CoreState) : (send v s).pendingLineFeed = s.pendingLineFeed := rfl
@[simp] theorem send_out (v : Byte) (s : CoreState) : (send v s).out = s.out ++ [v] := rfl
@[simp] theorem send_rdlog (v : Byte) (s : CoreState) : (send v s).rdlog = s.rdlog := rfl

/-! ### logRd -/

@[simp] theorem logRd_par (r : Res) (s : CoreState) : (logRd r s).par = s.par := rfl
@[simp] theorem logRd_rxbuf (r : Res) (s : CoreState) : (logRd r s).rxbuf = s.rxbuf := rfl
@[simp] theorem logRd_txbuf (r : Res) (s : CoreState) : (logRd r s).txbuf = s.txbuf := rfl
@[simp] theorem logRd_lineReadyCounter (r : Res) (s : CoreState) : (logRd r s).lineReadyCounter = s.lineReadyCounter := rfl
@[simp] theorem logRd_eraseBacklog (r : Res) (s : CoreState) : (logRd r s).eraseBacklog = s.eraseBacklog := rfl
@[simp] theorem logRd_eraseState (r : Res) (s : CoreState) : (logRd r s).eraseState = s.eraseState := rfl
@[simp] theorem logRd_txie (r : Res) (s : CoreState) : (logRd r s).txie = s.txie := rfl
@[simp] theorem logRd_haltOutput (r : Res) (s : CoreState) : (logRd r s).haltOutput = s.haltOutput := rfl
@[simp] theorem logRd_pendingLineFeed (r : Res) (s : CoreState) : (logRd r s).pendingLineFeed = s.pendingLineFeed := rfl
@[simp] theorem logRd_out (r : Res) (s : CoreState) : (logRd r s).out = s.out := rfl
@[simp] theorem logRd_rdlog (r : Res) (s : CoreState) : (logRd r s).rdlog = s.rdlog ++ [r] := rfl

/-! ### withCore -/

@[simp] theorem withCore_core (c : CoreState) (s : State) : (withCore c s).core = c := rfl
@[simp] theorem withCore_env (c : CoreState) (s : State) : (withCore c s).env = s.env := rfl
@[simp] theorem withCore_par (c : CoreState) (s : State) : (withCore c s).par = c.par := rfl
@[simp] theorem withCore_rxbuf (c : CoreState) (s : State) : (withCore c s).rxbuf = c.rxbuf := rfl
@[simp] theorem withCore_txbuf (c : CoreState) (s : State) : (withCore c s).txbuf = c.txbuf := rfl
@[simp] theorem withCore_lineReadyCounter (c : CoreState) (s : State) : (withCore c s).lineReadyCounter = c.lineReadyCounter := rfl
@[simp] theorem withCore_eraseBacklog (c : CoreState) (s : State) : (withCore c s).eraseBacklog = c.eraseBacklog := rfl
@[simp] theorem withCore_eraseState (c : CoreState) (s : State) : (withCore c s).eraseState = c.eraseState := rfl
@[simp] theorem withCore_txie (c : CoreState) (s : State) : (withCore c s).txie = c.txie := rfl
@[simp] theorem withCore_haltOutput (c : CoreState) (s : State) : (withCore c s).haltOutput = c.haltOutput := rfl
@[simp] theorem withCore_pendingLineFeed (c : CoreState) (s : State) : (withCore c s).pendingLineFeed = c.pendingLineFeed := rfl
@[simp] theorem withCore_out (c : CoreState) (s : State) : (withCore c s).out = c.out := rfl
@[simp] theorem withCore_rdlog (c : CoreState) (s : State) : (withCore c s).rdlog = c.rdlog := rfl
@[simp] theorem withCore_wrlog (c : CoreState) (s : State) : (withCore c s).wrlog = s.wrlog := rfl
@[simp] theorem withCore_started (c : CoreState) (s : State) : (withCore c s).started = s.started := rfl
@[simp] theorem withCore_initParams (c : CoreState) (s : State) : (withCore c s).initParams = s.initParams := rfl
@[simp] theorem withCore_trace (c : CoreState) (s : State) : (withCore c s).trace = s.trace := rfl

/-- Putting a state's own core back changes nothing. -/
@[simp] theorem withCore_self (s : State) : withCore s.core s = s := rfl

/-- Of two cores put in place one after the other the later stays. -/
@[simp] theorem withCore_withCore (c d : CoreState) (s : State) : withCore c (withCore d s) = withCore c s := rfl

/-! ### logWr -/

@[simp] theorem logWr_core (r : Res) (s : State) : (logWr r s).core = s.core := rfl
@[simp] theorem logWr_par (r : Res) (s : State) : (logWr r s).par = s.par := rfl
@[simp] theorem logWr_rxbuf (r : Res) (s : State) : (logWr r s).rxbuf = s.rxbuf := rfl
@[simp] theorem logWr_txbuf (r : Res) (s : State) : (logWr r s).txbuf = s.txbuf := rfl
@[simp] theorem logWr_lineReadyCounter (r : Res) (s : State) : (logWr r s).lineReadyCounter = s.lineReadyCounter := rfl
@[simp] theorem logWr_eraseBacklog (r : Res) (s : State) : (logWr r s).eraseBacklog = s.eraseBacklog := rfl
@[simp] theorem logWr_eraseState (r : Res) (s : State) : (logWr r s).eraseState = s.eraseState := rfl
@[simp] theorem logWr_txie (r : Res) (s : State) : (logWr r s).txie = s.txie := rfl
@[simp] theorem logWr_haltOutput (r : Res) (s : State) : (logWr r s).haltOutput = s.haltOutput := rfl
@[simp] theorem logWr_pendingLineFeed (r : Res) (s : State) : (logWr r s).pendingLineFeed = s.pendingLineFeed := rfl
@[simp] theorem logWr_out (r : Res) (s : State) : (logWr r s).out = s.out := rfl
@[simp] theorem logWr_rdlog (r : Res) (s : State) : (logWr r s).rdlog = s.rdlog := rfl
@[simp] theorem logWr_wrlog (r : Res) (s : State) : (logWr r s).wrlog = s.wrlog ++ [r] := rfl
@[simp] theorem logWr_started (r : Res) (s : State) : (logWr r s).started = s.started := rfl
@[simp] theorem logWr_initParams (r : Res) (s : State) : (logWr r s).initParams = s.initParams := rfl
@[simp] theorem logWr_trace (r : Res) (s : State) : (logWr r s).trace = s.trace := rfl

/-! ### setTrace -/

@[simp] theorem setTrace_core (ws : List EventWord) (s : State) : (setTrace ws s).core = s.core := rfl
@[simp] theorem setTrace_par (ws : List EventWord) (s : State) : (setTrace ws s).par = s.par := rfl
@[simp] theorem setTrace_rxbuf (ws : List EventWord) (s : State) : (setTrace ws s).rxbuf = s.rxbuf := rfl
@[simp] theorem setTrace_txbuf (ws : List EventWord) (s : State) : (setTrace ws s).txbuf = s.txbuf := rfl
@[simp] theorem setTrace_lineReadyCounter (ws : List EventWord) (s : State) : (setTrace ws s).lineReadyCounter = s.lineReadyCounter := rfl
@[simp] theorem setTrace_eraseBacklog (ws : List EventWord) (s : State) : (setTrace ws s).eraseBacklog = s.eraseBacklog := rfl
@[simp] theorem setTrace_eraseState (ws : List EventWord) (s : State) : (setTrace ws s).eraseState = s.eraseState := rfl
@[simp] theorem setTrace_txie (ws : List EventWord) (s : State) : (setTrace ws s).txie = s.txie := rfl
@[simp] theorem setTrace_haltOutput (ws : List EventWord) (s : State) : (setTrace ws s).haltOutput = s.haltOutput := rfl
@[simp] theorem setTrace_pendingLineFeed (ws : List EventWord) (s : State) : (setTrace ws s).pendingLineFeed = s.pendingLineFeed := rfl
@[simp] theorem setTrace_out (ws : List EventWord) (s : State) : (setTrace ws s).out = s.out := rfl
@[simp] theorem setTrace_rdlog (ws : List EventWord) (s : State) : (setTrace ws s).rdlog = s.rdlog := rfl
@[simp] theorem setTrace_wrlog (ws : List EventWord) (s : State) : (setTrace ws s).wrlog = s.wrlog := rfl
@[simp] theorem setTrace_started (ws : List EventWord) (s : State) : (setTrace ws s).started = s.started := rfl
@[simp] theorem setTrace_initParams (ws : List EventWord) (s : State) : (setTrace ws s).initParams = s.initParams := rfl
@[simp] theorem setTrace_trace (ws : List EventWord) (s : State) : (setTrace ws s).trace = ws := rfl

/-! ### The state after reset -/

/-- After reset nothing is listed in either storage. -/
theorem reset_storage : State.reset.rxbuf.storage = [] ∧ State.reset.txbuf.storage = [] := ⟨rfl, rfl⟩

end Sys2Proof.Machine
end

