-- ==== Sys2Proof/Laws/Ops.lean ====
section
/-!
SUPPORT. One lemma per shared operation that says everything it can do: `TxEnqueue`, `Echo`, `BacklogAdd`, `RetractOne`,
`RetractUntil`, the guards, the fetch and the outcome of a fallible event.
-/

namespace Sys2Proof.Machine

/-! ### Guards and outcomes -/

/-- A guarded event answers a next state only where the core is started and the event does. -/
theorem whenStarted_next {s t : State} {r : Result} (h : whenStarted s r = .next t) :
    s.started = true ∧ r = .next t := by
  unfold whenStarted at h
  split at h
  · exact ⟨‹_›, h⟩
  · cases h

/-- A started core runs the event. -/
theorem whenStarted_started {s : State} (r : Result) (h : s.started = true) : whenStarted s r = r := by
  simp [whenStarted, h]

/-- A core not started refuses the event. -/
theorem whenStarted_notStarted {s : State} (r : Result) (h : s.started = false) :
    whenStarted s r = .refused .notStarted := by
  simp [whenStarted, h]

theorem whenFiring_next {s t : State} {r : Result} (h : whenFiring s r = .next t) :
    s.started = true ∧ s.txie = true ∧ r = .next t := by
  obtain ⟨h1, h2⟩ := whenStarted_next h
  split at h2
  · exact ⟨h1, ‹_›, h2⟩
  · cases h2

theorem whenFiring_enabled {s : State} (r : Result) (h : s.started = true) (hx : s.txie = true) :
    whenFiring s r = r := by
  simp [whenFiring, whenStarted, h, hx]

theorem whenRxRow_next {row : Instr} {v : Byte} {s t : State} {r : Result} (h : whenRxRow row v s r = .next t) :
    s.started = true ∧ decodeRxByte s.par v = row ∧ r = .next t := by
  obtain ⟨h1, h2⟩ := whenStarted_next h
  split at h2
  · exact ⟨h1, ‹_›, h2⟩
  · cases h2

theorem whenRxRow_selected {row : Instr} {v : Byte} {s : State} (r : Result) (h : s.started = true)
    (hd : decodeRxByte s.par v = row) : whenRxRow row v s r = r := by
  simp [whenRxRow, whenStarted, h, hd]

theorem whenTxRow_next {row : Instr} {s t : State} {r : Result} (h : whenTxRow row s r = .next t) :
    s.started = true ∧ s.txie = true ∧ decodeTxKey (txKey s.core) = row ∧ r = .next t := by
  obtain ⟨h1, h2, h3⟩ := whenFiring_next h
  split at h3
  · exact ⟨h1, h2, ‹_›, h3⟩
  · cases h3

theorem whenTxRow_selected {row : Instr} {s : State} (r : Result) (h : s.started = true) (hx : s.txie = true)
    (hd : decodeTxKey (txKey s.core) = row) : whenTxRow row s r = r := by
  simp [whenTxRow, whenFiring, whenStarted, h, hx, hd]

/-- Everything an event of the core that ends in a next state does at `s`: the core changes, the environment stays. -/
theorem outcome_next {r : Except Fault CoreState} {s t : State} :
    outcome r s = .next t ↔ ∃ c, r = .ok c ∧ t = withCore c s := by
  cases r <;> simp [outcome, becomes, eq_comm]

theorem outcome_fault {r : Except Fault CoreState} {s : State} {f : Fault} : outcome r s = .fault f ↔ r = .error f := by
  cases r <;> simp [outcome, becomes]

theorem outcome_not_refused {r : Except Fault CoreState} {s : State} {f : Refusal} : outcome r s ≠ .refused f := by
  cases r <;> simp [outcome, becomes]

theorem becomes_next {c : CoreState} {s t : State} : becomes c s = .next t ↔ t = withCore c s := by
  simp [becomes, eq_comm]

/-! ### Fetch -/

theorem fetch_nil {s : State} (h : s.trace = []) : fetch s = none := by simp [fetch, h]

theorem fetch_cons {s : State} {w : EventWord} {ws : List EventWord} (h : s.trace = w :: ws) :
    fetch s = some (w, setTrace ws s) := by simp [fetch, h]

/-! ### Enqueues and echo -/

/-- Everything `TxEnqueue` does for the receive engine (R144): `TXBUF` becomes what `put` leaves, `TXIE` becomes 1. -/
theorem enqueue_eq (w : Byte) (s : CoreState) :
    enqueue w s = setTxIrq true (setTxbuf (ringPut s.par.nTx s.txbuf w).2 s) := rfl

/-- The result of `TxEnqueue` is that of `put` (R144). -/
theorem txEnqueue_result (w : Byte) (s : CoreState) : (txEnqueue w s).1 = (ringPut s.par.nTx s.txbuf w).1 := rfl

/-- Everything `Echo` can do (R145): nothing, one enqueue, or the two of a control echo. -/
theorem echo_cases (b : Byte) (s : CoreState) :
    echo b s = s ∨ echo b s = enqueue b s ∨ echo b s = enqueue (b ^^^ ctlXor) (enqueue s.par.caret s) := by
  unfold echo
  split
  · rename_i h
    split
    · exact .inr (.inl (by rw [h]))
    · exact .inl rfl
  · split
    · exact .inl rfl
    · split
      · exact .inr (.inr rfl)
      · exact .inr (.inl rfl)

/-- An enqueue writes `TXBUF` and `TXIE` and nothing else. -/
theorem enqueue_frame (w : Byte) (s : CoreState) :
    ∃ r, enqueue w s = setTxIrq true (setTxbuf r s) := ⟨_, rfl⟩

/-- `Echo` writes `TXBUF` and `TXIE` and nothing else. -/
theorem echo_frame (b : Byte) (s : CoreState) : ∃ r e, echo b s = setTxIrq e (setTxbuf r s) := by
  rcases echo_cases b s with h | h | h
  · exact ⟨s.txbuf, s.txie, h⟩
  · exact ⟨_, _, h⟩
  · exact ⟨_, _, h⟩

/-! ### The erase coordinator -/

/-- Everything one increment can do (R162, R27). -/
theorem backlogInc_cases (s : CoreState) :
    (2 ^ s.par.ebW ≤ s.eraseBacklog + 1 ∧ backlogInc s = .error .eraseBacklogOverflow) ∨
    (s.eraseBacklog + 1 < 2 ^ s.par.ebW ∧ backlogInc s = .ok (setEraseBacklog (s.eraseBacklog + 1) s)) := by
  by_cases h : 2 ^ s.par.ebW ≤ s.eraseBacklog + 1
  · exact .inl ⟨h, by simp [backlogInc, h]⟩
  · exact .inr ⟨by omega, by simp [backlogInc, h]⟩

/-- Increments that succeed add up. -/
theorem backlogIncs_ok {k : Nat} {s t : CoreState} (h : backlogIncs k s = .ok t) :
    t = setEraseBacklog (s.eraseBacklog + k) s := by
  induction k generalizing s with
  | zero =>
    simp only [backlogIncs, Except.ok.injEq] at h
    subst h
    rfl
  | succ k ih =>
    rcases backlogInc_cases s with ⟨_, e⟩ | ⟨_, e⟩
    · simp [backlogIncs, e] at h
    · simp only [backlogIncs, e] at h
      rw [ih h]
      simp [setEraseBacklog, Nat.add_assoc, Nat.add_comm 1 k]

/-- Increments fail only by overflow. -/
theorem backlogIncs_error {k : Nat} {s : CoreState} {f : Fault} (h : backlogIncs k s = .error f) :
    f = .eraseBacklogOverflow := by
  cases f
  rfl

/-- Everything a `BacklogAdd` that succeeds does (R162). -/
theorem backlogAdd_ok {c : Byte} {isKill : Bool} {s t : CoreState} (h : backlogAdd c isKill s = .ok t) :
    (visualFlag s.par isKill = true ∧ t = setTxIrq true (setEraseBacklog (s.eraseBacklog + columns s.par c) s)) ∨
    (visualFlag s.par isKill = false ∧ t = s) := by
  unfold backlogAdd at h
  split at h
  · rename_i hv
    split at h
    · cases h
    · rename_i u hu
      cases h
      exact .inl ⟨hv, by rw [backlogIncs_ok hu]⟩
  · rename_i hv
    cases h
    exact .inr ⟨by simpa using hv, rfl⟩

/-- Everything `RetractOne` can do (R160, R161): find nothing; uncover a byte that stops it and put it back; or erase the
newest byte and account for it. -/
theorem retractOne_cases (stop : Stop) (isKill : Bool) (s : CoreState) :
    (s.rxbuf.head = s.rxbuf.tail ∧ retractOne stop isKill s = .ok (false, s)) ∨
    ∃ c r, s.rxbuf.head ≠ s.rxbuf.tail ∧ c = rxSlot s (cursorPrev s.par.nRx s.rxbuf.tail) ∧
      r = { s.rxbuf with tail := cursorPrev s.par.nRx s.rxbuf.tail } ∧
      (((c = s.par.nl ∨ stops s.par stop c = true) ∧
          retractOne stop isKill s = .ok (false, rxPut c (setRxbuf r s))) ∨
        (¬(c = s.par.nl ∨ stops s.par stop c = true) ∧
          retractOne stop isKill s =
            match backlogAdd c isKill (setRxbuf r s) with
            | .error f => .error f
            | .ok t => .ok (true, t))) := by
  rcases ringUnput_cases .rx s.par.nRx s.rxbuf with ⟨he, hu⟩ | ⟨he, hu⟩
  · exact .inl ⟨he, by simp only [retractOne, hu]⟩
  · refine .inr ⟨_, _, he, rfl, rfl, ?_⟩
    by_cases hc : rxSlot s (cursorPrev s.par.nRx s.rxbuf.tail) = s.par.nl ∨
        stops s.par stop (rxSlot s (cursorPrev s.par.nRx s.rxbuf.tail)) = true
    · exact .inl ⟨hc, by simp only [retractOne, hu]; exact if_pos hc⟩
    · exact .inr ⟨hc, by simp only [retractOne, hu]; exact if_neg hc⟩

/-- `RetractOne` writes `RXBUF`, `EraseBacklog` and `TXIE` and nothing else. -/
theorem retractOne_frame {stop : Stop} {isKill e : Bool} {s t : CoreState} (h : retractOne stop isKill s = .ok (e, t)) :
    ∃ r n x, t = setTxIrq x (setEraseBacklog n (setRxbuf r s)) := by
  rcases retractOne_cases stop isKill s with ⟨_, h1⟩ | ⟨c, r, _, _, _, ⟨_, h1⟩ | ⟨_, h1⟩⟩
  · rw [h1] at h
    cases h
    exact ⟨s.rxbuf, s.eraseBacklog, s.txie, rfl⟩
  · rw [h1] at h
    cases h
    exact ⟨(ringPut s.par.nRx r c).2, s.eraseBacklog, s.txie, rfl⟩
  · rw [h1] at h
    split at h
    · cases h
    · rename_i u hu
      cases h
      rcases backlogAdd_ok hu with ⟨_, e2⟩ | ⟨_, e2⟩
      · exact ⟨r, _, _, e2⟩
      · exact ⟨r, s.eraseBacklog, s.txie, e2⟩

/-- One round of a sweep (R163): it stops with the first `RetractOne` that erases nothing. -/
theorem retractFuel_succ (fuel : Nat) (stop : Stop) (isKill : Bool) (s : CoreState) :
    retractFuel (fuel + 1) stop isKill s =
      match retractOne stop isKill s with
      | .error f => .error f
      | .ok (false, t) => .ok (0, t)
      | .ok (true, t) =>
        match retractFuel fuel stop isKill t with
        | .error f => .error f
        | .ok (k, u) => .ok (k + 1, u) := rfl

/-- A sweep writes `RXBUF`, `EraseBacklog` and `TXIE` and nothing else. -/
theorem retractFuel_frame {fuel : Nat} {stop : Stop} {isKill : Bool} {k : Nat} {s t : CoreState}
    (h : retractFuel fuel stop isKill s = .ok (k, t)) :
    ∃ r n x, t = setTxIrq x (setEraseBacklog n (setRxbuf r s)) := by
  induction fuel generalizing k s with
  | zero =>
    simp only [retractFuel, Except.ok.injEq, Prod.mk.injEq] at h
    exact ⟨s.rxbuf, s.eraseBacklog, s.txie, h.2.symm⟩
  | succ fuel ih =>
    rw [retractFuel_succ] at h
    split at h
    · cases h
    · rename_i u hu
      cases h
      exact retractOne_frame hu
    · rename_i u hu
      split at h
      · cases h
      · rename_i k' u' hu'
        cases h
        obtain ⟨r, n, x, e⟩ := ih hu'
        obtain ⟨r', n', x', e'⟩ := retractOne_frame hu
        exact ⟨r, n, x, by rw [e, e']; rfl⟩

/-! ### Parameters a core runs with -/

/-- A capacity is at least 2 and at most 256 (R6). -/
theorem isCapacity_bounds {n : Nat} (h : isCapacity n = true) : 2 ≤ n ∧ n ≤ 256 := by
  simp only [isCapacity, List.any_eq_true, List.mem_range, beq_iff_eq] at h
  obtain ⟨k, hk, rfl⟩ := h
  interval_cases k <;> decide

/-- What `launchable` gives (R6, R7, R256). -/
theorem launchable_bounds {p : Params} (h : launchable p = true) :
    (2 ≤ p.nRx ∧ p.nRx ≤ 256) ∧ (2 ≤ p.nTx ∧ p.nTx ≤ 256) ∧ p.xon ≠ p.xoff ∧ p.cr ≠ p.nl ∧ 1 ≤ p.ebW := by
  simp only [launchable, configValid, Bool.and_eq_true, bne_iff_ne, ne_eq, decide_eq_true_eq] at h
  exact ⟨isCapacity_bounds h.1.1.1.1.1, isCapacity_bounds h.1.1.1.1.2, h.1.1.1.2, h.1.1.2, h.2⟩

/-! ### What an event reads -/

/-- No event but `RESET` reads the port, the trace or the record of `WR` results: with other ones the core becomes the same. So
the core's next state is a function of the core's state, which is R20's table (R51). -/
theorem exec_reads_core {i : Instr} {s t : State} (e : Environment) (hi : i ≠ .reset) (he : e.started = s.started)
    (h : exec i s = .next t) : ∃ u, exec i { s with env := e } = .next u ∧ u.core = t.core := by
  cases i <;>
    simp only [exec, execRx, execTxrdy, execRd, execWr, execRxXoff, execRxXon, execRxIgncr, execRxErase, execRxEraseBs,
      execRxKill, execRxWerase, execRxNl, execRxOrd, execTxHalt, execTxLf, execTxErase0, execTxErasen, execTxData,
      execTxIdle, whenRxRow, whenTxRow, whenFiring, whenStarted, outcome, becomes, he] at h ⊢ <;>
    first
    | exact absurd rfl hi
    | (repeat' split at h) <;> simp_all <;> (subst h; rfl)

end Sys2Proof.Machine
end

