-- ==== Sys2Proof/Laws/PerInstr.lean ====
section
/-!
SUPPORT. One lemma per constructor of `Instr` for the family `RowBits`: the word of a well-formed instruction agrees with its
row's mask and match in spec/opcode_table.json (R95), the character codes at their defaults.
-/

namespace Sys2Proof.Laws.RowBits

/-- The `mask` of an instruction's row in spec/opcode_table.json. -/
def rowMask : Instr → Nat
  | .reset => 0x7FF
  | .rx _ => 0x700
  | .txrdy => 0x7FF
  | .rd => 0x7FF
  | .wr _ => 0x700
  | .rxXoff _ => 0xFF
  | .rxXon _ => 0xFF
  | .rxIgncr _ => 0xFF
  | .rxErase _ => 0xFF
  | .rxEraseBs _ => 0xFF
  | .rxKill _ => 0xFF
  | .rxWerase _ => 0xFF
  | .rxNl _ => 0xFF
  | .rxOrd _ => 0x00
  | .txHalt => 0x10
  | .txLf => 0x18
  | .txErase0 => 0x1E
  | .txErasen => 0x1C
  | .txData => 0x1F
  | .txIdle => 0x1F

/-- The `match` of an instruction's row in spec/opcode_table.json. -/
def rowMatch : Instr → Nat
  | .reset => 0x000
  | .rx _ => 0x100
  | .txrdy => 0x200
  | .rd => 0x300
  | .wr _ => 0x400
  | .rxXoff _ => 0x13
  | .rxXon _ => 0x11
  | .rxIgncr _ => 0x0D
  | .rxErase _ => 0x7F
  | .rxEraseBs _ => 0x08
  | .rxKill _ => 0x15
  | .rxWerase _ => 0x17
  | .rxNl _ => 0x0A
  | .rxOrd _ => 0x00
  | .txHalt => 0x10
  | .txLf => 0x08
  | .txErase0 => 0x02
  | .txErasen => 0x04
  | .txData => 0x01
  | .txIdle => 0x00

/-- The number a code is, read as the table numbers its bits. -/
def codeNat : Code → Nat
  | .event w => w.toNat
  | .rxByte v => v.toNat
  | .txKey k => k.toNat

/-- The value a row's mask and match apply to (R95): the event word, the key, or the byte its `tested_on` names (`v`, `b1` or
`b2` of R83). -/
def testedValue (p : Params) : Instr → Nat
  | .reset => codeNat (encode .reset)
  | .rx v => codeNat (encode (.rx v))
  | .txrdy => codeNat (encode .txrdy)
  | .rd => codeNat (encode .rd)
  | .wr w => codeNat (encode (.wr w))
  | .rxXoff v => v.toNat
  | .rxXon v => v.toNat
  | .rxIgncr v => (stripByte p v).toNat
  | .rxErase v => (receivedByte p v).toNat
  | .rxEraseBs v => (receivedByte p v).toNat
  | .rxKill v => (receivedByte p v).toNat
  | .rxWerase v => (receivedByte p v).toNat
  | .rxNl v => (receivedByte p v).toNat
  | .rxOrd v => (receivedByte p v).toNat
  | .txHalt => codeNat (encode .txHalt)
  | .txLf => codeNat (encode .txLf)
  | .txErase0 => codeNat (encode .txErase0)
  | .txErasen => codeNat (encode .txErasen)
  | .txData => codeNat (encode .txData)
  | .txIdle => codeNat (encode .txIdle)

/-- A well-formed instruction's word agrees with its row's mask and match. -/
def Statement (i : Instr) : Prop :=
  wellFormed Params.table i = true → testedValue Params.table i &&& rowMask i = rowMatch i

theorem reset : Statement .reset := fun _ => rfl

theorem rx (v : Byte) : Statement (.rx v) := by
  revert v; unfold Statement; decide

theorem txrdy : Statement .txrdy := fun _ => rfl

theorem rd : Statement .rd := fun _ => rfl

theorem wr (w : Byte) : Statement (.wr w) := by
  revert w; unfold Statement; decide

theorem rxXoff (v : Byte) : Statement (.rxXoff v) := by
  revert v; unfold Statement; decide

theorem rxXon (v : Byte) : Statement (.rxXon v) := by
  revert v; unfold Statement; decide

theorem rxIgncr (v : Byte) : Statement (.rxIgncr v) := by
  revert v; unfold Statement; decide

theorem rxErase (v : Byte) : Statement (.rxErase v) := by
  revert v; unfold Statement; decide

theorem rxEraseBs (v : Byte) : Statement (.rxEraseBs v) := by
  revert v; unfold Statement; decide

theorem rxKill (v : Byte) : Statement (.rxKill v) := by
  revert v; unfold Statement; decide

theorem rxWerase (v : Byte) : Statement (.rxWerase v) := by
  revert v; unfold Statement; decide

theorem rxNl (v : Byte) : Statement (.rxNl v) := by
  revert v; unfold Statement; decide

theorem rxOrd (v : Byte) : Statement (.rxOrd v) := by
  revert v; unfold Statement; decide

theorem txHalt : Statement .txHalt := fun _ => rfl

theorem txLf : Statement .txLf := fun _ => rfl

theorem txErase0 : Statement .txErase0 := fun _ => rfl

theorem txErasen : Statement .txErasen := fun _ => rfl

theorem txData : Statement .txData := fun _ => rfl

theorem txIdle : Statement .txIdle := fun _ => rfl

end Sys2Proof.Laws.RowBits
end

