-- ==== Sys2Proof/Tests/Slice0.lean ====
section
/-!
SUPPORT. Tests: words written out from the spec's encodings and their decoding; ill-formed terms and their refusal; at most two
small tests per instruction, the expected results from spec/95_test_vectors.md and the examples of the rules; and for each
statement of Certificates/Slice0/Obligations.lean that has hypotheses, a concrete state and operands that meet them.
-/

namespace Sys2Proof.Tests

open Sys2Proof.Machine

/-! ### Helpers -/

/-- A started core under `p` whose buffers hold the given bytes. -/
def loaded (p : Params) (rx tx : List Byte) : State :=
  { State.atReset p true with
    rxbuf := rx.foldl (fun r v => (ringPut p.nRx r v).2) emptyRing
    txbuf := tx.foldl (fun r v => (ringPut p.nTx r v).2) emptyRing }

/-- The next state, where there is one. -/
def next? (r : Result) : Option State :=
  match r with
  | .next t => some t
  | .fault _ => none
  | .refused _ => none

/-- The refusal, where there is one. -/
def refusal? (r : Result) : Option Refusal :=
  match r with
  | .next _ => none
  | .fault _ => none
  | .refused f => some f

/-- The fault, where there is one. -/
def fault? (r : Result) : Option Fault :=
  match r with
  | .next _ => none
  | .fault f => some f
  | .refused _ => none

/-- Profile T1 with `N_RX` and `N_TX` of the given values. -/
def small (n m : Nat) : Params := { Params.t1 with nRx := n, nTx := m }

/-- Profile T1 with another `cfg`. -/
def withCfg (c : LineConfig) : Params := { Params.t1 with cfg := c }

/-- The bytes "ab", "hello" and "foo bar " of the source's examples. -/
def ab : List Byte := [0x61, 0x62]

/-- "hello". -/
def hello : List Byte := [0x68, 0x65, 0x6C, 0x6C, 0x6F]

/-- "foo bar " with its trailing space. -/
def fooBar : List Byte := [0x66, 0x6F, 0x6F, 0x20, 0x62, 0x61, 0x72, 0x20]

/-- A core that may fire: `TXIE` is 1. -/
def firing (s : State) : State := { s with txie := true }

/-! ### Decoding: every constructor, by a word written from the spec's encoding (R80, R81, R83, R94) -/

theorem test_decode_reset : decode Params.t1 (.event 0b00000000000) = .ok .reset := rfl
theorem test_decode_rx : decode Params.t1 (.event 0b00101100001) = .ok (.rx 0x61) := rfl
theorem test_decode_txrdy : decode Params.t1 (.event 0b01000000000) = .ok .txrdy := rfl
theorem test_decode_rd : decode Params.t1 (.event 0b01100000000) = .ok .rd := rfl
theorem test_decode_wr : decode Params.t1 (.event 0b10001101000) = .ok (.wr 0x68) := rfl
theorem test_decode_rxXoff : decodeRxByte Params.t1 0b00010011 = .rxXoff 0x13 := by decide
theorem test_decode_rxXon : decodeRxByte Params.t1 0b00010001 = .rxXon 0x11 := by decide
theorem test_decode_rxIgncr : decodeRxByte Params.table 0b00001101 = .rxIgncr 0x0D := by decide
theorem test_decode_rxErase : decodeRxByte Params.t1 0b01111111 = .rxErase 0x7F := by decide
theorem test_decode_rxEraseBs : decodeRxByte Params.t1 0b00001000 = .rxEraseBs 0x08 := by decide
theorem test_decode_rxKill : decodeRxByte Params.t1 0b00010101 = .rxKill 0x15 := by decide
theorem test_decode_rxWerase : decodeRxByte Params.t1 0b00010111 = .rxWerase 0x17 := by decide
theorem test_decode_rxNl : decodeRxByte Params.t1 0b00001010 = .rxNl 0x0A := by decide
theorem test_decode_rxOrd : decodeRxByte Params.t1 0b01100001 = .rxOrd 0x61 := by decide
theorem test_decode_txHalt : decodeTxKey 0b11111 = .txHalt := by decide
theorem test_decode_txLf : decodeTxKey 0b01111 = .txLf := by decide
theorem test_decode_txErase0 : decodeTxKey 0b00011 = .txErase0 := by decide
theorem test_decode_txErasen : decodeTxKey 0b00111 = .txErasen := by decide
theorem test_decode_txData : decodeTxKey 0b00001 = .txData := by decide
theorem test_decode_txIdle : decodeTxKey 0b00000 = .txIdle := by decide

/-- "Event decode" of spec/95_test_vectors.md: 0x201 and kinds 5, 6, 7 are reserved. -/
theorem test_decode_reserved :
    decodeEvent 0x201 = .error .reservedData ∧ decodeEvent 0x500 = .error .reservedKind ∧
      decodeEvent 0x6FF = .error .reservedKind ∧ decodeEvent 0x7AA = .error .reservedKind := ⟨rfl, rfl, rfl, rfl⟩

/-- R90: the word of profile T1; P4's word. -/
theorem test_config_word :
    LineConfig.t1.toWord = 0x5C55FF85F ∧ (LineConfig.ofWord 0x5C55FC280).inlcr = true ∧
      (LineConfig.ofWord 0x5C55FC280).istrip = true ∧ (LineConfig.ofWord 0x5C55FC280).canonical = false := by decide

/-- R86: the result words. -/
theorem test_result_words :
    resultWord .ok = 0x000 ∧ resultWord (.byte 0x68) = 0x168 ∧ resultWord .full = 0x200 ∧
      resultWord .empty = 0x300 := by decide

/-- R84, R85: the encodings of the enumerations. -/
theorem test_enum_bits :
    eraseStateBits .sendSpace = 2 ∧ eraseStateOfBits 3 = .sendBackspace2 ∧ stopBits .atNonSpace = 2 := by decide

/-- R91: the textual form of an event. -/
theorem test_trace_line : traceLine (.rx 0x7F) = some "RX 0x7F" := by decide

/-! ### WellFormed: an ill-formed term for each check -/

theorem test_wf_rxXoff : wellFormed Params.t1 (.rxXoff 0x11) = false := by decide
theorem test_wf_rxXon : wellFormed Params.t1 (.rxXon 0x13) = false := by decide
theorem test_wf_rxIgncr : wellFormed Params.t1 (.rxIgncr 0x0D) = false := by decide
theorem test_wf_rxErase : wellFormed Params.t1 (.rxErase 0x08) = false := by decide
theorem test_wf_rxEraseBs : wellFormed Params.t1 (.rxEraseBs 0x7F) = false := by decide
theorem test_wf_rxKill : wellFormed (withCfg { LineConfig.t1 with canonical := false }) (.rxKill 0x15) = false := by decide
theorem test_wf_rxWerase : wellFormed Params.t1 (.rxWerase 0x15) = false := by decide
theorem test_wf_rxNl : wellFormed Params.t1 (.rxNl 0x61) = false := by decide
theorem test_wf_rxOrd : wellFormed Params.t1 (.rxOrd 0x0D) = false := by decide
/-- A row before takes the byte: `XOFF` is no ordinary byte with `flow`. -/
theorem test_wf_taken : wellFormed Params.t1 (.rxOrd 0x13) = false := by decide

/-! ### RESET -/

/-- V-RS-3: a `RESET` of a running core. -/
theorem test_reset_running :
    next? (exec .reset { loaded Params.t1 ab [0x41] with haltOutput := true, txie := true }) =
      some { State.reset with
        rxbuf := { emptyRing with storage := [(0, 0x61), (1, 0x62)] }
        txbuf := { emptyRing with storage := [(0, 0x41)] } } := by decide

/-- V-RS-4, V-RS-5: malformed configurations. -/
theorem test_reset_malformed :
    refusal? (exec .reset (State.powerUp (small 3 16))) = some .malformedConfiguration ∧
      refusal? (exec .reset (State.powerUp (small 512 16))) = some .malformedConfiguration ∧
      refusal? (exec .reset (State.powerUp (small 1 16))) = some .malformedConfiguration ∧
      refusal? (exec .reset (State.powerUp { Params.t1 with xon := 0x13 })) = some .malformedConfiguration := by decide

/-! ### The receive engine -/

/-- V-RX-9: with `istrip`, 0x93 is not `XOFF`; it is stored as 0x13 and echoed as `^S`. -/
theorem test_rx_strip :
    (next? (exec (.rx 0x93) (loaded (withCfg { LineConfig.t1 with istrip := true }) [] []))).map
      (fun t => (rxResident t.core, txResident t.core, t.haltOutput, t.txie)) =
      some ([0x13], [0x5E, 0x53], false, true) := by decide

/-- V-RX-6: with both input maps, `CR` is stored as `NL` and `NL` as `CR`. -/
theorem test_rx_both_maps :
    (next? (runEvents [.rx 0x0D, .rx 0x0A] (loaded (withCfg { LineConfig.t1 with inlcr := true }) [] []))).map
      (fun t => (rxResident t.core, txResident t.core, t.lineReadyCounter)) =
      some ([0x0A, 0x0D], [0x0A, 0x5E, 0x4D], 1) := by decide

/-- V-RX-19. -/
theorem test_rxXoff : next? (exec (.rxXoff 0x13) (firing State.reset)) =
    some { State.reset with haltOutput := true } := by decide

/-- V-RX-20: `XON` sets `TXIE` with no work. -/
theorem test_rxXon : next? (exec (.rxXon 0x11) { State.reset with haltOutput := true }) =
    some { State.reset with txie := true } := by decide

/-- V-RX-5: `igncr` before `icrnl`. -/
theorem test_rxIgncr :
    next? (exec (.rxIgncr 0x0D) (loaded Params.table [] [])) = some (loaded Params.table [] []) := by decide

/-- V-ER-3: erasing a control character owes two columns. -/
theorem test_rxErase :
    (next? (exec (.rxErase 0x7F) (loaded Params.t1 [0x61, 0x01] []))).map
      (fun t => (rxResident t.core, t.eraseBacklog, txResident t.core, t.txie)) = some ([0x61], 2, [], true) := by decide

/-- V-ER-2: erase never crosses an `NL`. -/
theorem test_rxErase_newline :
    next? (exec (.rxErase 0x7F) (loaded Params.t1 [0x61, 0x0A] [])) = some (loaded Params.t1 [0x61, 0x0A] []) := by
  decide

/-- V-ER-4, and V-ER-5 with the literal backspace: echoed as `^H` where `echoe` is off. -/
theorem test_rxEraseBs :
    (next? (exec (.rxEraseBs 0x08) (loaded (withCfg { LineConfig.t1 with echoe := false }) ab []))).map
      (fun t => (rxResident t.core, t.eraseBacklog, txResident t.core)) = some ([0x61], 0, [0x5E, 0x48]) := by decide

/-- S5. -/
theorem test_rxKill :
    (next? (exec (.rxKill 0x15) (loaded Params.t1 hello []))).map
      (fun t => (rxResident t.core, t.eraseBacklog, txResident t.core, t.txie)) = some ([], 5, [], true) := by decide

/-- V-ER-8: kill is echoed once as `^U`. -/
theorem test_rxKill_echo :
    (next? (exec (.rxKill 0x15) (loaded (withCfg { LineConfig.t1 with echok := false }) hello []))).map
      (fun t => (rxResident t.core, t.eraseBacklog, txResident t.core)) = some ([], 0, [0x5E, 0x55]) := by decide

/-- S6. -/
theorem test_rxWerase :
    (next? (exec (.rxWerase 0x17) (loaded Params.t1 fooBar []))).map
      (fun t => (rxResident t.core, t.eraseBacklog)) = some ([0x66, 0x6F, 0x6F, 0x20], 4) := by decide

/-- V-ER-13: word-erase stops at an `NL`. -/
theorem test_rxWerase_newline :
    (next? (exec (.rxWerase 0x17) (loaded Params.t1 [0x61, 0x0A, 0x66, 0x6F, 0x6F, 0x20, 0x20] []))).map
      (fun t => (rxResident t.core, t.eraseBacklog)) = some ([0x61, 0x0A], 5) := by decide

/-- V-AD-3: an `NL` needs one free slot. -/
theorem test_rxNl :
    (next? (exec (.rxNl 0x0D) (loaded (small 4 16) ab []))).map
      (fun t => (rxResident t.core, txResident t.core, t.lineReadyCounter)) = some ([0x61, 0x62, 0x0A], [0x0A], 1) := by decide

/-- V-AD-4: a full `RXBUF` refuses even an `NL`. -/
theorem test_rxNl_refused :
    (next? (exec (.rxNl 0x0A) (loaded (small 4 16) [0x61, 0x62, 0x0A] []))).map
      (fun t => (rxResident t.core, txResident t.core, t.lineReadyCounter)) = some ([0x61, 0x62, 0x0A], [0x07], 0) := by decide

/-- V-EC-1: with one free slot in `TXBUF` the caret is queued and the letter is lost. -/
theorem test_rxOrd_half_echo :
    (next? (exec (.rxOrd 0x01) (loaded (small 16 4) ab ab))).map
      (fun t => (rxResident t.core, txResident t.core)) = some ([0x61, 0x62, 0x01], [0x61, 0x62, 0x5E]) := by decide

/-- V-AD-2: a byte other than `NL` needs two free slots; the bell rings. -/
theorem test_rxOrd_refused :
    (next? (exec (.rxOrd 0x63) (loaded (small 4 16) ab []))).map
      (fun t => (rxResident t.core, txResident t.core, t.txie)) = some (ab, [0x07], true) := by decide

/-- V-ER-17: the overflow of `EraseBacklog` is a fault. -/
theorem test_kill_overflow :
    fault? (exec (.rxKill 0x15) (loaded { Params.t1 with ebW := 2 } [0x61, 0x62, 0x63, 0x64] [])) =
      some .eraseBacklogOverflow := by decide

/-- A row the byte does not select is refused. -/
theorem test_row_not_selected : refusal? (exec (.rxKill 0x61) State.reset) = some .rowNotSelected := by decide

/-! ### The transmit engine -/

/-- V-TX-9: a firing with nothing to do turns the interrupt off. -/
theorem test_txrdy_idle : next? (exec .txrdy (firing State.reset)) = some State.reset := by decide

/-- V-RS-6: no firing right after `RESET`. -/
theorem test_txrdy_not_enabled : refusal? (exec .txrdy State.reset) = some .txrdyNotEnabled := by decide

/-- S8 step 3. -/
theorem test_txHalt :
    next? (exec .txHalt (firing { loaded Params.t1 [] [0x41] with haltOutput := true })) =
      some { loaded Params.t1 [] [0x41] with haltOutput := true } := by decide

/-- S7 step 7. -/
theorem test_txLf :
    (next? (exec .txLf (firing { State.reset with pendingLineFeed := true }))).map
      (fun t => (t.out, t.pendingLineFeed, t.txie)) = some ([0x0A], false, true) := by decide

/-- V-TX-6. -/
theorem test_txErase0 :
    (next? (exec .txErase0 (firing { State.reset with eraseBacklog := 1 }))).map
      (fun t => (t.out, t.eraseState, t.eraseBacklog)) = some ([0x08], .sendSpace, 0) := by decide

/-- R184: `SP` in the middle of a replay. -/
theorem test_txErasen :
    (next? (exec .txErasen (firing { State.reset with eraseState := .sendSpace, eraseBacklog := 1 }))).map
      (fun t => (t.out, t.eraseState, t.eraseBacklog)) = some ([0x20], .sendBackspace2, 1) := by decide

/-- V-TX-3: the first half of a split newline. -/
theorem test_txData_split :
    (next? (exec .txData (firing (loaded Params.t1 [] [0x0A])))).map
      (fun t => (t.out, t.pendingLineFeed, txResident t.core, t.txie)) = some ([0x0D], true, [], true) := by decide

/-- V-TX-1: with `ocrnl` a `CR` leaves as `NL`, unexpanded. -/
theorem test_txData_ocrnl :
    (next? (exec .txData (firing (loaded (withCfg { LineConfig.t1 with ocrnl := true }) [] [0x0D, 0x0A])))).map
      (fun t => (t.out, t.pendingLineFeed, txResident t.core)) = some ([0x0A], false, [0x0A]) := by decide

/-- R187. -/
theorem test_txIdle : next? (exec .txIdle (firing State.reset)) = some State.reset := by decide

/-! ### The host port -/

/-- V-HP-1, V-HP-2: the read gate. -/
theorem test_rd_gate :
    next? (exec .rd (loaded Params.t1 hello [])) = some { loaded Params.t1 hello [] with rdlog := [.empty] } := by decide

/-- S3: reading an `NL` gives up the line. -/
theorem test_rd_newline :
    (next? (exec .rd { loaded Params.t1 [0x0A, 0x78] [] with lineReadyCounter := 1 })).map
      (fun t => (t.rdlog, rxResident t.core, t.lineReadyCounter, t.rxbuf.head)) =
      some ([.byte 0x0A], [0x78], 0, 1) := by decide

/-- V-HP-6, the last `WR`. -/
theorem test_wr_full :
    (next? (exec (.wr 0x44) (loaded (small 16 4) [] [0x41, 0x42, 0x43]))).map
      (fun t => (t.wrlog, txResident t.core, t.txie)) = some ([.full], [0x41, 0x42, 0x43], true) := by decide

/-- V-HP-8. -/
theorem test_wr_halted :
    (next? (exec (.wr 0x41) { State.reset with haltOutput := true })).map
      (fun t => (t.wrlog, txResident t.core, t.txie, t.haltOutput)) = some ([.ok], [0x41], true, true) := by decide

/-- R203: a blocking `read` that waits for the line to complete. -/
theorem test_blocking_read :
    (match blockingRead [[.rx 0x0D]] (loaded Params.t1 [0x68] []) with
      | .next (r, t) => some (r, rxResident t.core)
      | .fault _ => none
      | .refused _ => none) = some (some 0x68, [0x0A]) := by decide

/-- R204: a blocking `write` that waits for a firing to make room. -/
theorem test_blocking_write :
    (match blockingWrite 0x42 [[.txrdy]] (loaded (small 16 2) [] [0x41]) with
      | .next (r, t) => some (r, txResident t.core, t.out)
      | .fault _ => none
      | .refused _ => none) = some (true, [0x42], [0x41]) := by decide

/-! ### The step and the table's words -/

/-- A placed event word is what the next step runs. -/
theorem test_step_rx :
    next? (step (State.reset.withFetchWord 16 0x161)) = next? (exec (.rx 0x61) State.reset) := by decide

/-- The word of the row RX.IGNCR runs that row. -/
theorem test_step_igncr :
    decodeTableWord 8 0x0D = some (.rxIgncr 0x0D) ∧
      next? (step (State.reset.withFetchWord 8 0x0D)) = some (loaded Params.t1 [] [] |> fun s =>
        { s with par := Params.table }) := by decide

/-- The word of the row TX.HALT runs that row. -/
theorem test_step_halt :
    decodeTableWord 8 0x10 = some .txHalt ∧
      next? (step (State.reset.withFetchWord 8 0x10)) = some { State.reset with haltOutput := true } := by decide

/-- A reserved word is refused. -/
theorem test_step_reserved :
    refusal? (step (State.reset.withFetchWord 16 0x500)) = some (.reservedEventWord .reservedKind) := by decide

/-! ### Witnesses: states and operands that meet the hypotheses of the statements -/

theorem witness_DecodeEncodeRoundTrip :
    wellFormed Params.table (.rxXoff 0x13) = true ∧ wellFormed Params.table (.rxXon 0x11) = true ∧
      wellFormed Params.table (.rxIgncr 0x0D) = true ∧ wellFormed Params.table (.rxErase 0x7F) = true ∧
      wellFormed Params.table (.rxEraseBs 0x08) = true ∧ wellFormed Params.table (.rxKill 0x15) = true ∧
      wellFormed Params.table (.rxWerase 0x17) = true ∧ wellFormed Params.table (.rxNl 0x0A) = true ∧
      wellFormed Params.table (.rxOrd 0x00) = true ∧ wellFormed Params.table (.rx 0xFF) = true ∧
      wellFormed Params.table .txIdle = true := by decide

theorem witness_DecodedInstructionIsWellFormed :
    decode Params.t1 (.event 0x1FF) = .ok (.rx 0xFF) ∧ decode Params.t1 (.rxByte 0x13) = .ok (.rxXoff 0x13) ∧
      decode Params.t1 (.txKey 0x1F) = .ok .txHalt := ⟨rfl, rfl, rfl⟩

theorem witness_ReservedWordsHaveNoTransition :
    (deliver 0x7AA State.reset).trace = 0x7AA :: [] ∧ decodeEvent 0x7AA = .error .reservedKind ∧
      (deliver 0x001 State.reset).trace = 0x001 :: [] ∧ decodeEvent 0x001 = .error .reservedData ∧
      State.reset.started = true ∧ State.reset.txie = false ∧
      (deliver (eventWord 2 0) State.reset).trace = eventWord 2 0 :: [] := ⟨rfl, rfl, rfl, rfl, rfl, rfl, rfl⟩

theorem witness_StepRunsDecodedEvent :
    (deliver 0x161 State.reset).trace = 0x161 :: [] ∧ decodeEvent 0x161 = .ok (.rx 0x61) ∧
      State.reset.trace = [] := ⟨rfl, rfl, rfl⟩

/-- At the bounds of R6: capacities 2 and 256, `EB_W` 1; and before the first `RESET`. -/
theorem witness_ResetSetsEveryRegister :
    launchable { small 2 256 with ebW := 1 } = true ∧ launchable State.reset.initParams = true ∧
      State.reset.started = true ∧ State.reset.initParams = State.reset.par ∧
      (State.powerUp (small 2 256)).started = false := by decide

theorem witness_ResetRefusesMalformedConfiguration :
    configValid (small 1 16) = false ∧ configValid (small 512 16) = false ∧ configValid (small 16 3) = false ∧
      configValid { Params.t1 with cr := 0x0A } = false ∧ configValid (small 2 256) = true := by decide

theorem witness_ResetOfRunningCore :
    State.reset.started = true ∧ launchable State.reset.par = true ∧ State.reset.initParams = State.reset.par ∧
      launchable ({ State.reset with initParams := small 8 8 } : State).initParams = true ∧
      ({ State.reset with initParams := small 8 8 } : State).initParams ≠ State.reset.par := by decide

theorem witness_ResetIsIdempotent : ∃ t, exec .reset (State.powerUp (small 2 256)) = .next t := ⟨_, rfl⟩

theorem witness_ResetLeavesCoreQuiescent : ∃ t, exec .reset (loaded Params.t1 ab hello) = .next t := ⟨_, rfl⟩

theorem witness_NoTransitionBeforeReset :
    (State.powerUp Params.t1).started = false ∧ Instr.rxKill 0x15 ≠ .reset := by decide

theorem witness_ConfigurationIsImmutable :
    State.reset.started = true ∧ (∃ t, exec (.rx 0x61) State.reset = .next t) ∧
      ∃ t, exec .reset State.reset = .next t := ⟨rfl, ⟨_, rfl⟩, ⟨_, rfl⟩⟩

theorem witness_XoffHaltsOutput :
    State.reset.started = true ∧ State.reset.par.cfg.flow = true ∧ (0x13 : Byte) = State.reset.par.xoff := by decide

theorem witness_XonResumesOutput :
    State.reset.started = true ∧ State.reset.par.cfg.flow = true ∧ (0x11 : Byte) = State.reset.par.xon ∧
      (0x11 : Byte) ≠ State.reset.par.xoff := by decide

theorem witness_IgnoredCrChangesNothing :
    let s := loaded Params.table [] []
    s.started = true ∧ ((0x0D : Byte) ≠ s.par.xoff ∧ (0x0D : Byte) ≠ s.par.xon) ∧ s.par.cfg.igncr = true ∧
      stripByte s.par 0x0D = s.par.cr := by decide

theorem witness_ReceiveEventRunsSelectedRow :
    State.reset.started = true ∧ encode (.rxKill 0x61) = .rxByte 0x61 ∧
      Instr.rxKill 0x61 ≠ decodeRxByte State.reset.par 0x61 := by decide

/-- Exactly two free slots in canonical mode; exactly one in raw mode. -/
theorem witness_OrdinaryByteAdmitted :
    let s := loaded (small 4 16) [0x61] []
    let r := loaded { small 4 16 with cfg := { LineConfig.t1 with canonical := false } } ab []
    s.started = true ∧ shapeOk s ∧ wellFormed s.par (.rxOrd 0x01) = true ∧ 2 = ringFree s.par.nRx s.rxbuf ∧
      s.par.cfg.canonical = true ∧
      r.started = true ∧ shapeOk r ∧ wellFormed r.par (.rxOrd 0x7F) = true ∧ 1 = ringFree r.par.nRx r.rxbuf ∧
      r.par.cfg.canonical = false := by decide

/-- Exactly one free slot. -/
theorem witness_NewlineAdmitted :
    let s := loaded (small 4 16) ab []
    s.started = true ∧ shapeOk s ∧ wellFormed s.par (.rxNl 0x0D) = true ∧ 1 = ringFree s.par.nRx s.rxbuf := by decide

/-- One free slot for an ordinary byte in canonical mode; none for an `NL`. -/
theorem witness_ByteWithoutRoomRingsBell :
    let s := loaded (small 4 16) ab []
    let f := loaded (small 4 16) [0x61, 0x62, 0x0A] []
    s.started = true ∧ shapeOk s ∧ wellFormed s.par (.rxOrd 0x63) = true ∧
      ringFree s.par.nRx s.rxbuf < (if s.par.cfg.canonical = true then 2 else 1) ∧
      f.started = true ∧ shapeOk f ∧ wellFormed f.par (.rxNl 0x0A) = true ∧ ringFree f.par.nRx f.rxbuf < 1 := by decide

/-- The last unit of `EraseBacklog` is still free. -/
theorem witness_EraseRemovesNewestCharacter :
    let s := { loaded Params.t1 ab [] with eraseBacklog := 254 }
    s.started = true ∧ shapeOk s ∧ backlogRoom (columnsOwed s.par false (eraseRemoves s.par (rxResident s.core))) s ∧
      columnsOwed s.par false (eraseRemoves s.par (rxResident s.core)) = 1 ∧
      wellFormed s.par (.rxErase 0x7F) = true ∧ wellFormed s.par (.rxEraseBs 0x08) = true := by decide

theorem witness_KillEmptiesCurrentLine :
    let s := { loaded Params.t1 (0x0A :: hello) [] with eraseBacklog := 250 }
    s.started = true ∧ shapeOk s ∧ wellFormed s.par (.rxKill 0x15) = true ∧
      backlogRoom (columnsOwed s.par true (sweepRemoves s.par .none (rxResident s.core))) s ∧
      sweepRemoves s.par .none (rxResident s.core) = hello.reverse := by decide

theorem witness_WordEraseRemovesLastWord :
    let s := { loaded Params.t1 fooBar [] with eraseBacklog := 251 }
    s.started = true ∧ shapeOk s ∧ wellFormed s.par (.rxWerase 0x17) = true ∧
      backlogRoom (columnsOwed s.par false (weraseRemoves s.par (rxResident s.core))) s ∧
      weraseRemoves s.par (rxResident s.core) = [0x20, 0x72, 0x61, 0x62] := by decide

/-- The four clauses with room and without. -/
theorem witness_BacklogOverflowFaults :
    let s := { loaded Params.t1 ab [] with eraseBacklog := 255 }
    s.started = true ∧ shapeOk s ∧ backlogOk s ∧ wellFormed s.par (.rxErase 0x7F) = true ∧
      wellFormed s.par (.rxEraseBs 0x08) = true ∧ wellFormed s.par (.rxKill 0x15) = true ∧
      wellFormed s.par (.rxWerase 0x17) = true ∧
      ¬ backlogRoom (columnsOwed s.par false (eraseRemoves s.par (rxResident s.core))) s ∧
      ¬ backlogRoom (columnsOwed s.par true (sweepRemoves s.par .none (rxResident s.core))) s ∧
      ¬ backlogRoom (columnsOwed s.par false (weraseRemoves s.par (rxResident s.core))) s ∧
      backlogRoom (columnsOwed s.par false (weraseRemoves s.par (rxResident s.core))) { s with eraseBacklog := 253 } := by
  decide

theorem witness_OnlyEraseEventsFault :
    exec (.rx 0x7F) { loaded Params.t1 ab [] with eraseBacklog := 255 } = .fault .eraseBacklogOverflow := rfl

theorem witness_ReceiveEventCompletes :
    let s := { loaded Params.t1 ab [] with eraseBacklog := 251 }
    s.started = true ∧ shapeOk s ∧ backlogRoom (2 * (rxResident s.core).length) s := by decide

theorem witness_ReceiveEventBounds :
    (shapeOk (loaded (small 4 16) ab []) ∧ lineRoomOk (loaded (small 4 16) ab [])) ∧
      ∃ t, exec (.rx 0x15) (loaded (small 4 16) ab []) = .next t := ⟨by decide, ⟨_, rfl⟩⟩

theorem witness_ReceiveEventOwnership :
    encode (.rxErase 0x7F) = .rxByte 0x7F ∧ (∃ t, exec (.rxErase 0x7F) (loaded Params.t1 ab []) = .next t) ∧
      ∃ t, exec (.rx 0x41) (loaded Params.t1 ab []) = .next t := ⟨rfl, ⟨_, rfl⟩, ⟨_, rfl⟩⟩

theorem witness_EchoWidthIsColumnsOwed :
    Params.t1.cfg.echo = true ∧ (0x01 : Byte) ≠ Params.t1.nl ∧ Params.t1.cfg.echoctl = true ∧
      isCtl 0x1F = true ∧ isCtl 0x20 = false ∧ isCtl 0x7F = true ∧ isCtl 0x80 = false := by decide

theorem witness_FiringRunsSelectedBranch :
    (firing State.reset).started = true ∧ (firing State.reset).txie = true ∧ encode .txData = .txKey 0x01 ∧
      Instr.txData ≠ decodeTxKey (txKey (firing State.reset).core) := by decide

theorem witness_FiringNeedsInterruptEnabled :
    State.reset.started = true ∧ State.reset.txie = false ∧ encode .txHalt = .txKey 0x10 := by decide

theorem witness_HaltedFiringOnlyDisables :
    let s := firing { State.reset with haltOutput := true }
    s.started = true ∧ s.txie = true ∧ s.haltOutput = true := by decide

theorem witness_PendingLineFeedIsSent :
    let s := firing { State.reset with pendingLineFeed := true }
    s.started = true ∧ s.txie = true ∧ s.haltOutput = false ∧ s.pendingLineFeed = true := by decide

theorem witness_ReplayStartsWithBackspace :
    let s := firing { State.reset with eraseBacklog := 1 }
    s.started = true ∧ s.txie = true ∧ s.haltOutput = false ∧ s.pendingLineFeed = false ∧ s.eraseState = .idle ∧
      0 < s.eraseBacklog := by decide

/-- One state for each clause. -/
theorem witness_ReplayContinues :
    let s := firing State.reset
    s.started = true ∧ s.txie = true ∧ s.haltOutput = false ∧ s.pendingLineFeed = false ∧
      { s with eraseState := .sendBackspace1 }.eraseState = .sendBackspace1 ∧
      { s with eraseState := .sendSpace }.eraseState = .sendSpace ∧
      { s with eraseState := .sendBackspace2 }.eraseState = .sendBackspace2 := by decide

theorem witness_DataByteIsMappedAndSent :
    let s := firing (loaded Params.t1 [] [0x0A, 0x41])
    s.started = true ∧ shapeOk s ∧ s.txie = true ∧ s.haltOutput = false ∧ s.pendingLineFeed = false ∧
      s.eraseState = .idle ∧ s.eraseBacklog = 0 ∧ txResident s.core = 0x0A :: [0x41] := by decide

theorem witness_IdleFiringOnlyDisables :
    let s := firing State.reset
    s.started = true ∧ s.txie = true ∧ s.haltOutput = false ∧ workOutstanding s.core = false := by decide

theorem witness_FiringSendsAtMostOneByte :
    (∃ t, exec .txrdy (firing (loaded Params.t1 [] ab)) = .next t) ∧ ∃ t, exec .txrdy (firing State.reset) = .next t :=
  ⟨⟨_, rfl⟩, ⟨_, rfl⟩⟩

theorem witness_FiringOwnership :
    encode .txData = .txKey 0x01 ∧ (∃ t, exec .txData (firing (loaded Params.t1 [] ab)) = .next t) ∧
      ∃ t, exec .txrdy (firing (loaded Params.t1 [] ab)) = .next t := ⟨rfl, ⟨_, rfl⟩, ⟨_, rfl⟩⟩

theorem witness_OwedWorkIsSentInOrder :
    let s := firing { loaded Params.t1 [] [0x0A, 0x41] with eraseBacklog := 2, eraseState := .sendSpace, pendingLineFeed := true }
    s.started = true ∧ shapeOk s ∧ s.haltOutput = false ∧ s.txie = true ∧
      owedBytes s.core = [0x0A, 0x20, 0x08, 0x08, 0x20, 0x08, 0x08, 0x20, 0x08, 0x0D, 0x0A, 0x41] := by decide

theorem witness_HaltedCoreSendsNothing :
    ({ State.reset with haltOutput := true } : State).haltOutput = true ∧
      (∀ i ∈ [Instr.wr 0x41, .txrdy, .rd], i ≠ .reset ∧
        ∀ v, i = .rx v ∨ i = .rxXon v → decodeRxByte State.reset.par v ≠ .rxXon v) ∧
      ∃ t, runEvents [.wr 0x41, .txrdy, .rd] { State.reset with haltOutput := true } = .next t :=
  ⟨rfl, by simp, ⟨_, rfl⟩⟩

/-- Both gates open; the canonical gate shut; an empty buffer. -/
theorem witness_ReadReturnsOldestByte :
    let s := { loaded Params.t1 [0x61, 0x0A] [] with lineReadyCounter := 1 }
    s.started = true ∧ shapeOk s ∧ rxResident s.core = 0x61 :: [0x0A] ∧ s.lineReadyCounter ≠ 0 ∧
      shapeOk State.reset ∧ State.reset.par.cfg.canonical = true ∧ State.reset.lineReadyCounter = 0 ∧
      rxResident State.reset.core = [] := by decide

/-- No free slot; the last free slot. -/
theorem witness_WriteEnqueuesByte :
    let f := loaded (small 16 4) [] [0x41, 0x42, 0x43]
    let s := loaded (small 16 4) [] ab
    f.started = true ∧ shapeOk f ∧ ringFree f.par.nTx f.txbuf = 0 ∧ s.started = true ∧ shapeOk s ∧
      ringFree s.par.nTx s.txbuf = 1 := by decide

theorem witness_CanonicalReadStopsAtNewline :
    let s := { loaded Params.t1 [0x61, 0x0A] [] with lineReadyCounter := 1 }
    (shapeOk s ∧ lineCountOk s ∧ s.par.cfg.canonical = true) ∧
      (next? (exec .rd s)).map (fun t => t.rdlog) = some (s.rdlog ++ [.byte 0x61]) := by decide

theorem witness_BlockingReadReturnsReadyByte :
    let s := { loaded Params.t1 [0x61, 0x0A] [] with lineReadyCounter := 1 }
    s.started = true ∧ shapeOk s ∧ s.lineReadyCounter ≠ 0 ∧ rxResident s.core = 0x61 :: [0x0A] := by decide

/-- The smallest capacity, empty and full. -/
theorem witness_RingPutUnputLaws :
    ringOk 2 emptyRing ∧ (ringPut 2 emptyRing 0x41).1 = .ok ∧ ringOk 2 (ringPut 2 emptyRing 0x41).2 ∧
      (ringUnput .rx 2 (ringPut 2 emptyRing 0x41).2).1 = .byte 0x41 ∧
      (ringPut 2 (ringPut 2 emptyRing 0x41).2 0x42).1 = .full ∧ (ringGet .rx 2 emptyRing).1 = .empty := by decide

theorem witness_RingRefinesBoundedQueue :
    ringOk 4 (ringPut 4 emptyRing 0x41).2 ∧ resident .tx 4 (ringPut 4 emptyRing 0x41).2 = [0x41] ∧
      ringOk 4 emptyRing ∧ resident .tx 4 emptyRing = [] := by decide

theorem witness_RingAcceptsCapacityMinusOne :
    ringOk 4 emptyRing ∧ emptyRing.head = emptyRing.tail ∧ ([0x41, 0x42, 0x43] : List Byte).length = 4 - 1 := by decide

theorem witness_StepKeepsShape :
    shapeOk (deliver 0x161 State.reset) ∧ (next? (step (deliver 0x161 State.reset))).isSome = true := by decide

theorem witness_StepKeepsResidentWritten :
    shapeOk (deliver 0x161 (loaded Params.t1 ab ab)) ∧ writtenOk (deliver 0x161 (loaded Params.t1 ab ab)) ∧
      (next? (step (deliver 0x161 (loaded Params.t1 ab ab)))).isSome = true := by decide

theorem witness_StepKeepsLineCount :
    shapeOk (deliver 0x10D (loaded Params.t1 ab ab)) ∧ lineCountOk (deliver 0x10D (loaded Params.t1 ab ab)) ∧
      (next? (step (deliver 0x10D (loaded Params.t1 ab ab)))).isSome = true := by decide

theorem witness_StepKeepsLineRoom :
    shapeOk (deliver 0x163 (loaded (small 4 4) [0x61] [])) ∧ lineRoomOk (deliver 0x163 (loaded (small 4 4) [0x61] [])) ∧
      (next? (step (deliver 0x163 (loaded (small 4 4) [0x61] [])))).isSome = true := by decide

theorem witness_StepKeepsRegisterRanges :
    let s := deliver 0x17F { loaded Params.t1 ab [] with eraseBacklog := 254 }
    backlogOk s ∧ replayOk s ∧ haltOk s ∧ (next? (step s)).isSome = true := by decide

theorem witness_StepStrandsNothing :
    let s := deliver 0x200 (firing (loaded Params.t1 [] ab))
    nothingStranded s ∧ workOutstanding s.core = true ∧ (next? (step s)).isSome = true := by decide

theorem witness_RunKeepsInvariants :
    Inv (deliver 0x161 State.reset) ∧ ∃ t, Sys2Proof.core.run 1 (deliver 0x161 State.reset) = .next t :=
  ⟨⟨by decide, by decide, by decide, by decide, by decide, by decide, by decide, by decide⟩, ⟨_, rfl⟩⟩

end Sys2Proof.Tests
end

/-!
PROOF. The event words of R80 to R82: the fields of a word that is put together, the words the decoder rejects, what a step
does with the word it takes; from these, that reserved words and a `TXRDY` word while `TXIE` is 0 have no transition.
-/

namespace Sys2Proof

/-! ### The fields of an event word (R80) -/

@[simp] theorem eventKind_eventWord (kind : BitVec 3) (data : Byte) : eventKind (eventWord kind data) = kind :=
  BitVec.extractLsb'_append_eq_left

@[simp] theorem eventData_eventWord (kind : BitVec 3) (data : Byte) : eventData (eventWord kind data) = data :=
  BitVec.extractLsb'_append_eq_right

/-! ### What the decoder makes of a kind (R81, R82) -/

theorem noOperand_rejects_iff (data : Byte) (i : Instr) : (∃ why, noOperand data i = .error why) ↔ data ≠ 0 := by
  unfold noOperand
  split
  case isTrue h => simp [h]
  case isFalse h => simpa using h

/-- The decoder rejects the kinds 5 to 7, and the kinds without operand when they carry one. -/
theorem decodeEvent_rejects_iff (w : EventWord) :
    (∃ why, decodeEvent w = .error why) ↔
      (5 ≤ (eventKind w).toNat ∨
        (((eventKind w).toNat = 0 ∨ (eventKind w).toNat = 2 ∨ (eventKind w).toNat = 3) ∧ eventData w ≠ 0)) := by
  unfold decodeEvent
  split
  case h_1 hk => simp [noOperand_rejects_iff, hk]
  case h_2 hk => simp [hk]
  case h_3 hk => simp [noOperand_rejects_iff, hk]
  case h_4 hk => simp [noOperand_rejects_iff, hk]
  case h_5 hk => simp [hk]
  case h_6 h0 h1 h2 h3 h4 =>
    rw [imp_false] at h0 h1 h2 h3 h4
    have reservedKind : 5 ≤ (eventKind w).toNat := by omega
    simp [reservedKind]

theorem decodeEvent_rxWord (v : Byte) : decodeEvent (eventWord 1 v) = .ok (.rx v) := by
  simp [decodeEvent]

theorem decodeEvent_wrWord (w : Byte) : decodeEvent (eventWord 4 w) = .ok (.wr w) := by
  simp [decodeEvent]

theorem decodeEvent_txrdyWord : decodeEvent (eventWord 2 0) = .ok .txrdy := rfl

namespace Machine

/-! ### A step at a word (R65) -/

/-- A step with an event pending runs its word on the state without it. -/
theorem step_cons {s : State} {w : EventWord} {ws : List EventWord} (h : s.trace = w :: ws) :
    step s = runWord w (setTrace ws s) := by
  simp [step, fetch_cons h]

theorem runWord_decoded {w : EventWord} {i : Instr} (s : State) (h : decodeEvent w = .ok i) : runWord w s = exec i s := by
  simp [runWord, h]

theorem runWord_rejected {w : EventWord} {why : Reject} (s : State) (h : decodeEvent w = .error why) :
    runWord w s = .refused (.reservedEventWord why) := by
  simp [runWord, h]

/-! ### A firing that is not enabled (R180) -/

theorem whenFiring_notEnabled {s : State} (r : Result) (h : s.started = true) (hx : s.txie = false) :
    whenFiring s r = .refused .txrdyNotEnabled := by
  simp [whenFiring, whenStarted_started _ h, hx]

theorem exec_txrdy_notEnabled {s : State} (h : s.started = true) (hx : s.txie = false) :
    exec .txrdy s = .refused .txrdyNotEnabled :=
  whenFiring_notEnabled _ h hx

/-! ### Words without a transition (R82) -/

theorem step_rejected {s : State} {w : EventWord} {ws : List EventWord} {why : Reject} (ht : s.trace = w :: ws)
    (hd : decodeEvent w = .error why) : step s = .refused (.reservedEventWord why) :=
  (step_cons ht).trans (runWord_rejected _ hd)

theorem step_txrdyWord_notEnabled {s : State} {ws : List EventWord} (hs : s.started = true) (hx : s.txie = false)
    (ht : s.trace = eventWord 2 0 :: ws) : step s = .refused .txrdyNotEnabled :=
  calc step s = runWord (eventWord 2 0) (setTrace ws s) := step_cons ht
    _ = exec .txrdy (setTrace ws s) := runWord_decoded _ decodeEvent_txrdyWord
    _ = .refused .txrdyNotEnabled := exec_txrdy_notEnabled hs hx

/-- Settles O3: the decoder's rejections by kind, and the two refusals of a step. -/
theorem reservedWordsHaveNoTransition : Obligations.ReservedWordsHaveNoTransition :=
  ⟨decodeEvent_rejects_iff, fun _ _ _ _ => step_rejected, fun _ _ => step_txrdyWord_notEnabled,
    fun v => ⟨decodeEvent_rxWord v, decodeEvent_wrWord v⟩⟩

end Machine

end Sys2Proof

/-!
PROOF. The ring buffer of R110 to R117: cursors step back and forth, each operation keeps the form of R23 to R25 and moves
`count` by one, `put` accepts a byte where fewer than N - 1 are resident and appends it; from these, the laws of R117 and the
capacity of R116.
-/

namespace Sys2Proof

namespace Machine

/-! ### Cursors (R62) -/

theorem cursorPrev_cursorNext {n c : Nat} (h : c < n) : cursorPrev n (cursorNext n c) = c := by
  by_cases last : c + 1 = n
  · rw [cursorNext_eq h, if_pos last, cursorPrev_eq (by omega), if_pos rfl, ← last, Nat.add_sub_cancel]
  · rw [cursorNext_eq h, if_neg last, cursorPrev_eq (by omega), if_neg (Nat.succ_ne_zero c), Nat.add_sub_cancel]

theorem cursorNext_cursorPrev {n c : Nat} (h : c < n) : cursorNext n (cursorPrev n c) = c := by
  rw [cursorNext_eq (cursorPrev_lt (Nat.zero_lt_of_lt h)), cursorPrev_eq h]
  split_ifs <;> omega

/-! ### What `count` becomes when one cursor moves (R115) -/

theorem ringCount_eq_zero_iff {n : Nat} {r : Ring} (hh : r.head < n) (ht : r.tail < n) :
    ringCount n r = 0 ↔ r.head = r.tail := by
  rw [ringCount_eq hh ht]
  split <;> omega

/-- The put cursor stands one short of the get cursor exactly where N - 1 bytes are resident. -/
theorem ringCount_eq_pred_iff {n : Nat} {r : Ring} (hh : r.head < n) (ht : r.tail < n) :
    ringCount n r = n - 1 ↔ cursorNext n r.tail = r.head := by
  rw [ringCount_eq hh ht, cursorNext_eq ht]
  split_ifs <;> omega

theorem ringCount_tail_next {n : Nat} {r : Ring} (m : List Host.Cell) (hh : r.head < n) (ht : r.tail < n)
    (room : cursorNext n r.tail ≠ r.head) :
    ringCount n { r with storage := m, tail := cursorNext n r.tail } = ringCount n r + 1 := by
  have moved : cursorNext n r.tail < n := cursorNext_lt (by omega)
  rw [ringCount_eq (r := { r with storage := m, tail := cursorNext n r.tail }) hh moved, ringCount_eq hh ht]
  dsimp only
  rw [cursorNext_eq ht] at room ⊢
  split_ifs at room ⊢ <;> omega

theorem ringCount_tail_prev {n : Nat} {r : Ring} (hh : r.head < n) (ht : r.tail < n) (nonempty : r.head ≠ r.tail) :
    ringCount n { r with tail := cursorPrev n r.tail } + 1 = ringCount n r := by
  have moved : cursorPrev n r.tail < n := cursorPrev_lt (by omega)
  rw [ringCount_eq (r := { r with tail := cursorPrev n r.tail }) hh moved, ringCount_eq hh ht]
  dsimp only
  rw [cursorPrev_eq ht]
  split_ifs <;> omega

theorem ringCount_head_next {n : Nat} {r : Ring} (hh : r.head < n) (ht : r.tail < n) (nonempty : r.head ≠ r.tail) :
    ringCount n { r with head := cursorNext n r.head } + 1 = ringCount n r := by
  have moved : cursorNext n r.head < n := cursorNext_lt (by omega)
  rw [ringCount_eq (r := { r with head := cursorNext n r.head }) moved ht, ringCount_eq hh ht]
  dsimp only
  rw [cursorNext_eq hh]
  split_ifs <;> omega

/-! ### An operation by its result (R110 to R112) -/

theorem ringPut_of_ok {n : Nat} {r : Ring} {v : Byte} (h : (ringPut n r v).1 = .ok) :
    cursorNext n r.tail ≠ r.head ∧
      ringPut n r v = (.ok, { r with storage := memWrite r.storage (r.tail % n) v, tail := cursorNext n r.tail }) := by
  obtain ⟨-, full⟩ | stored := ringPut_cases n r v
  · simp [full] at h
  · exact stored

theorem ringPut_of_full {n : Nat} {r : Ring} {v : Byte} (h : (ringPut n r v).1 = .full) : (ringPut n r v).2 = r := by
  obtain ⟨-, full⟩ | ⟨-, stored⟩ := ringPut_cases n r v
  · rw [full]
  · simp [stored] at h

theorem ringGet_of_byte {id : BufId} {n : Nat} {r : Ring} {v : Byte} (h : (ringGet id n r).1 = .byte v) :
    r.head ≠ r.tail ∧ (ringGet id n r).2 = { r with head := cursorNext n r.head } := by
  obtain ⟨-, empty⟩ | ⟨nonempty, taken⟩ := ringGet_cases id n r
  · simp [empty] at h
  · exact ⟨nonempty, by rw [taken]⟩

theorem ringGet_of_empty {id : BufId} {n : Nat} {r : Ring} (h : (ringGet id n r).1 = .empty) :
    (ringGet id n r).2 = r := by
  obtain ⟨-, empty⟩ | ⟨-, taken⟩ := ringGet_cases id n r
  · rw [empty]
  · simp [taken] at h

theorem ringUnput_of_byte {id : BufId} {n : Nat} {r : Ring} {v : Byte} (h : (ringUnput id n r).1 = .byte v) :
    r.head ≠ r.tail ∧ slotByte id n r (cursorPrev n r.tail) = v ∧
      (ringUnput id n r).2 = { r with tail := cursorPrev n r.tail } := by
  obtain ⟨-, empty⟩ | ⟨nonempty, taken⟩ := ringUnput_cases id n r
  · simp [empty] at h
  · rw [taken] at h ⊢
    exact ⟨nonempty, by simpa using h, rfl⟩

theorem ringUnput_of_empty {id : BufId} {n : Nat} {r : Ring} (h : (ringUnput id n r).1 = .empty) :
    (ringUnput id n r).2 = r := by
  obtain ⟨-, empty⟩ | ⟨-, taken⟩ := ringUnput_cases id n r
  · rw [empty]
  · simp [taken] at h

/-! ### Every operation keeps the form of R23 to R25 -/

theorem ringOk_ringPut {n : Nat} {r : Ring} (v : Byte) (h : ringOk n r) : ringOk n (ringPut n r v).2 := by
  obtain ⟨-, full⟩ | ⟨-, stored⟩ := ringPut_cases n r v
  · rwa [full]
  · obtain ⟨hhead, htail, hwf, hbelow⟩ := h
    have positive : 0 < n := by omega
    rw [stored]
    exact ⟨hhead, cursorNext_lt positive, memWrite_wf _ v hwf, slotsBelow_memWrite v hbelow (Nat.mod_lt _ positive)⟩

theorem ringOk_ringGet {n : Nat} {r : Ring} (id : BufId) (h : ringOk n r) : ringOk n (ringGet id n r).2 := by
  obtain ⟨-, empty⟩ | ⟨-, taken⟩ := ringGet_cases id n r
  · rwa [empty]
  · obtain ⟨hhead, rest⟩ := h
    rw [taken]
    exact ⟨cursorNext_lt (by omega), rest⟩

theorem ringOk_ringUnput {n : Nat} {r : Ring} (id : BufId) (h : ringOk n r) : ringOk n (ringUnput id n r).2 := by
  obtain ⟨-, empty⟩ | ⟨-, taken⟩ := ringUnput_cases id n r
  · rwa [empty]
  · obtain ⟨hhead, htail, storage⟩ := h
    rw [taken]
    exact ⟨hhead, cursorPrev_lt (by omega), storage⟩

/-! ### What an operation that succeeds does to `count` (R117 d) -/

theorem ringCount_ringPut {n : Nat} {r : Ring} {v : Byte} (hr : ringOk n r) (h : (ringPut n r v).1 = .ok) :
    ringCount n (ringPut n r v).2 = ringCount n r + 1 := by
  obtain ⟨hhead, htail, -⟩ := hr
  obtain ⟨room, stored⟩ := ringPut_of_ok h
  rw [stored]
  exact ringCount_tail_next _ hhead htail room

theorem ringCount_ringGet {id : BufId} {n : Nat} {r : Ring} {v : Byte} (hr : ringOk n r)
    (h : (ringGet id n r).1 = .byte v) : ringCount n (ringGet id n r).2 + 1 = ringCount n r := by
  obtain ⟨hhead, htail, -⟩ := hr
  obtain ⟨nonempty, taken⟩ := ringGet_of_byte h
  rw [taken]
  exact ringCount_head_next hhead htail nonempty

theorem ringCount_ringUnput {id : BufId} {n : Nat} {r : Ring} {v : Byte} (hr : ringOk n r)
    (h : (ringUnput id n r).1 = .byte v) : ringCount n (ringUnput id n r).2 + 1 = ringCount n r := by
  obtain ⟨hhead, htail, -⟩ := hr
  obtain ⟨nonempty, -, taken⟩ := ringUnput_of_byte h
  rw [taken]
  exact ringCount_tail_prev hhead htail nonempty

/-! ### `put` and `unput` undo each other (R117 a, b) -/

/-- After a `put` the byte comes back; what is left of the `put` is the byte in its slot, no longer resident. -/
theorem ringUnput_ringPut {n : Nat} {r : Ring} {v : Byte} (id : BufId) (ht : r.tail < n)
    (h : (ringPut n r v).1 = .ok) :
    ringUnput id n (ringPut n r v).2 = (.byte v, { r with storage := memWrite r.storage (r.tail % n) v }) := by
  obtain ⟨room, stored⟩ := ringPut_of_ok h
  have notEmpty : ringIsEmpty (ringPut n r v).2 = false := by simp [stored, ringIsEmpty, room.symm]
  rw [ringUnput, notEmpty, stored]
  simp [cursorPrev_cursorNext ht, slotByte_memWrite]

/-- Putting back what `unput` took rewrites its slot with the byte it holds. -/
theorem ringPut_ringUnput {id : BufId} {n : Nat} {r : Ring} {v : Byte} (ht : r.tail < n)
    (h : (ringUnput id n r).1 = .byte v) :
    ringPut n (ringUnput id n r).2 v = (.ok, { r with storage := memWrite r.storage (cursorPrev n r.tail % n) v }) := by
  obtain ⟨nonempty, -, taken⟩ := ringUnput_of_byte h
  simp [taken, ringPut, ringIsFull, cursorNext_cursorPrev ht, nonempty.symm]

theorem slotByte_ringPut_ringUnput {id : BufId} {n : Nat} {r : Ring} {v : Byte} (ht : r.tail < n)
    (h : (ringUnput id n r).1 = .byte v) (c : Nat) :
    slotByte id n (ringPut n (ringUnput id n r).2 v).2 c = slotByte id n r c := by
  obtain ⟨-, byte, -⟩ := ringUnput_of_byte h
  rw [ringPut_ringUnput ht h, slotByte_memWrite]
  split
  case isTrue same => rw [← byte, slotByte, slotByte, same]
  case isFalse => rfl

/-- Settles O50: each operation's inversion by its result, `put` and `unput` as inverses, and the form they keep. -/
theorem ringPutUnputLaws : Obligations.RingPutUnputLaws := by
  intro id n r v hr
  have ⟨_, htail, _⟩ := hr
  refine ⟨fun ok => ?putUnput, fun byte => ?unputPut, ringCount_ringGet hr, ringPut_of_full, ringGet_of_empty,
    ringUnput_of_empty, ringGet_tail id n r, ringPut_head n r v, ringUnput_head id n r, ?putTail, ?getHead, ?unputTail⟩
  case putUnput =>
    rw [ringUnput_ringPut id htail ok]
    exact ⟨rfl, rfl, rfl, ringCount_ringPut hr ok⟩
  case unputPut =>
    have slots := slotByte_ringPut_ringUnput htail byte
    rw [ringPut_ringUnput htail byte] at slots ⊢
    exact ⟨rfl, rfl, rfl, slots, ringCount_ringUnput hr byte⟩
  case putTail =>
    obtain ⟨-, tailOk, -⟩ := ringOk_ringPut v hr
    exact tailOk
  case getHead =>
    obtain ⟨headOk, -⟩ := ringOk_ringGet id hr
    exact headOk
  case unputTail =>
    obtain ⟨-, tailOk, -⟩ := ringOk_ringUnput id hr
    exact tailOk

/-! ### The resident bytes (R25) and the room for more (R114, R116) -/

@[simp] theorem length_resident (id : BufId) (n : Nat) (r : Ring) : (resident id n r).length = ringCount n r := by
  simp [resident]

theorem ringPut_ok_iff {n : Nat} {r : Ring} (v : Byte) (hr : ringOk n r) :
    (ringPut n r v).1 = .ok ↔ ringCount n r < n - 1 := by
  obtain ⟨hhead, htail, -⟩ := hr
  have bound : ringCount n r < n := ringCount_lt (by omega)
  have atCapacity := ringCount_eq_pred_iff hhead htail
  obtain ⟨full, result⟩ | ⟨room, result⟩ := ringPut_cases n r v
  · simp [result, atCapacity.mpr full]
  · have below : ringCount n r ≠ n - 1 := fun e => room (atCapacity.mp e)
    simp only [result, true_iff]
    omega

theorem ringPut_full_iff {n : Nat} {r : Ring} (v : Byte) (hr : ringOk n r) :
    (ringPut n r v).1 = .full ↔ ringCount n r = n - 1 := by
  obtain ⟨hhead, htail, -⟩ := hr
  rw [ringCount_eq_pred_iff hhead htail]
  obtain ⟨full, result⟩ | ⟨room, result⟩ := ringPut_cases n r v
  · simp [result, full]
  · simp [result, room]

/-- The put cursor stands `count` slots after the get cursor. -/
theorem head_add_ringCount {n : Nat} {r : Ring} (hh : r.head < n) (ht : r.tail < n) :
    (r.head + ringCount n r) % n = r.tail := by
  rw [ringCount_eq hh ht]
  split
  case isTrue ahead => rw [Nat.add_sub_cancel' ahead, Nat.mod_eq_of_lt ht]
  case isFalse => rw [Nat.add_sub_cancel' (by omega), Nat.add_mod_right, Nat.mod_eq_of_lt ht]

/-- No resident slot is the one the next `put` writes. -/
theorem residentSlot_ne_tail {n i : Nat} {r : Ring} (hh : r.head < n) (ht : r.tail < n) (hi : i < ringCount n r) :
    (r.head + i) % n ≠ r.tail := by
  intro same
  have bound : ringCount n r < n := ringCount_lt (by omega)
  have congruent : i ≡ ringCount n r [MOD n] :=
    Nat.ModEq.add_left_cancel' r.head (same.trans (head_add_ringCount hh ht).symm)
  exact hi.ne (congruent.eq_of_lt_of_lt (hi.trans bound) bound)

/-- A `put` that succeeds appends its byte to the resident ones. -/
theorem resident_ringPut {n : Nat} {r : Ring} {v : Byte} (id : BufId) (hr : ringOk n r)
    (h : (ringPut n r v).1 = .ok) : resident id n (ringPut n r v).2 = resident id n r ++ [v] := by
  have counted := ringCount_ringPut hr h
  obtain ⟨hhead, htail, -⟩ := hr
  obtain ⟨-, stored⟩ := ringPut_of_ok h
  have newest : slotByte id n (ringPut n r v).2 (r.head + ringCount n r) = v := by
    rw [stored, slotByte_memWrite, head_add_ringCount hhead htail, Nat.mod_eq_of_lt htail, if_pos rfl]
  have older : ∀ i ∈ List.range (ringCount n r),
      slotByte id n (ringPut n r v).2 (r.head + i) = slotByte id n r (r.head + i) := by
    intro i hi
    rw [stored, slotByte_memWrite, Nat.mod_eq_of_lt htail,
      if_neg (residentSlot_ne_tail hhead htail (List.mem_range.mp hi))]
  rw [resident, counted, ringPut_head, List.range_succ, List.map_append, List.map_congr_left older, List.map_singleton,
    newest, resident]

/-! ### One `put` after another -/

/-- The ring buffer after a `put` of each byte in turn, whatever each returns. -/
def ringPutAll (n : Nat) (r : Ring) (vs : List Byte) : Ring := vs.foldl (fun q w => (ringPut n q w).2) r

@[simp] theorem ringPutAll_nil (n : Nat) (r : Ring) : ringPutAll n r [] = r := rfl

@[simp] theorem ringPutAll_cons (n : Nat) (r : Ring) (v : Byte) (vs : List Byte) :
    ringPutAll n r (v :: vs) = ringPutAll n (ringPut n r v).2 vs := rfl

theorem ringOk_ringPutAll {n : Nat} {r : Ring} (vs : List Byte) (hr : ringOk n r) : ringOk n (ringPutAll n r vs) := by
  induction vs generalizing r with
  | nil => exact hr
  | cons v vs ih => exact ih (ringOk_ringPut v hr)

/-- Bytes there is room for become resident in order. -/
theorem resident_ringPutAll {n : Nat} {r : Ring} (id : BufId) {vs : List Byte} (hr : ringOk n r)
    (room : ringCount n r + vs.length ≤ n - 1) : resident id n (ringPutAll n r vs) = resident id n r ++ vs := by
  induction vs generalizing r with
  | nil => simp
  | cons v vs ih =>
    rw [List.length_cons] at room
    have ok : (ringPut n r v).1 = .ok := (ringPut_ok_iff v hr).mpr (by omega)
    have roomLeft : ringCount n (ringPut n r v).2 + vs.length ≤ n - 1 := by
      rw [ringCount_ringPut hr ok]
      omega
    rw [ringPutAll_cons, ih (ringOk_ringPut v hr) roomLeft, resident_ringPut id hr ok, List.append_assoc,
      List.singleton_append]

theorem ringCount_ringPutAll {n : Nat} {r : Ring} {vs : List Byte} (hr : ringOk n r)
    (room : ringCount n r + vs.length ≤ n - 1) : ringCount n (ringPutAll n r vs) = ringCount n r + vs.length := by
  rw [← length_resident .rx, resident_ringPutAll .rx hr room, List.length_append, length_resident]

/-- Settles O52: the bytes put so far are what is resident, so `put` succeeds until `count` is N - 1. -/
theorem ringAcceptsCapacityMinusOne : Obligations.RingAcceptsCapacityMinusOne := by
  intro id n r vs v hr empty hlength
  have ⟨hhead, htail, _⟩ := hr
  have countZero : ringCount n r = 0 := (ringCount_eq_zero_iff hhead htail).mpr empty
  have countAfter : ∀ ws : List Byte, ws.length ≤ n - 1 → ringCount n (ringPutAll n r ws) = ws.length := by
    intro ws hws
    rw [ringCount_ringPutAll hr (by omega), countZero, Nat.zero_add]
  refine ⟨fun k hk => ?accepted, ?inOrder, ?full⟩
  case accepted =>
    have taken : (vs.take k).length = k := List.length_take_of_le hk.le
    apply (ringPut_ok_iff _ (ringOk_ringPutAll (vs.take k) hr)).mpr
    rw [countAfter _ (by omega)]
    omega
  case inOrder =>
    have residentNil : resident id n r = [] := List.length_eq_zero_iff.mp (by rw [length_resident, countZero])
    exact (resident_ringPutAll id hr (by omega)).trans (by rw [residentNil, List.nil_append])
  case full =>
    apply (ringPut_full_iff v (ringOk_ringPutAll vs hr)).mpr
    rw [countAfter vs (by omega), hlength]

end Machine

end Sys2Proof

/-!
PROOF. The received-byte decode at work (R83): a well-formed row of format RXB is the one its byte selects, so a started core
runs it; what `RX` does with the bytes steps 1 and 3 of R130 take; from these, flow control (R131, R132) and the ignored `CR`
(R135).
-/

namespace Sys2Proof

/-! ### The row a byte selects (R83, R95) -/

theorem isSpecial_cons_cons (p : Params) (a b : Byte) (codes : List Byte) (v : Byte) :
    isSpecial p (a :: b :: codes) v = (isSpecial p [a] v || isSpecial p (b :: codes) v) := by
  simp [isSpecial, Bool.and_or_distrib_left]

/-- The order of R83, in the terms in which well-formedness is said. -/
theorem decodeRxByte_eq (p : Params) (v : Byte) :
    decodeRxByte p v =
      if takenByXoff p v then .rxXoff v
      else if takenByXon p v then .rxXon v
      else if takenByIgncr p v then .rxIgncr v
      else if isSpecial p [p.cfg.eraseCode] v then .rxErase v
      else if isSpecial p [p.bs] v then .rxEraseBs v
      else if isSpecial p [p.cfg.killCode] v then .rxKill v
      else if isSpecial p [p.cfg.weraseCode] v then .rxWerase v
      else if receivedByte p v == p.nl then .rxNl v
      else .rxOrd v := by
  simp [decodeRxByte, takenByXoff, takenByXon, takenByIgncr, isSpecial]

theorem decodeRxByte_of_wellFormed {p : Params} {v : Byte} {i : Instr} (row : encode i = .rxByte v)
    (wf : wellFormed p i = true) : decodeRxByte p v = i := by
  rw [decodeRxByte_eq]
  cases i <;> cases row
  -- Left are the nine rows of R83: each clause of `wellFormed` says its own test holds and every earlier one fails.
  all_goals simp_all [wellFormed, reachesStep5, isSpecial_cons_cons]

namespace Machine

/-! ### A well-formed row runs in a started core (R95, R257) -/

section Rows

variable {s : State} {v : Byte}

theorem exec_rxXoff (started : s.started = true) (wf : wellFormed s.par (.rxXoff v) = true) :
    exec (.rxXoff v) s = becomes (pauseOutput s.core) s :=
  whenRxRow_selected _ started (decodeRxByte_of_wellFormed rfl wf)

theorem exec_rxXon (started : s.started = true) (wf : wellFormed s.par (.rxXon v) = true) :
    exec (.rxXon v) s = becomes (resumeOutput s.core) s :=
  whenRxRow_selected _ started (decodeRxByte_of_wellFormed rfl wf)

theorem exec_rxIgncr (started : s.started = true) (wf : wellFormed s.par (.rxIgncr v) = true) :
    exec (.rxIgncr v) s = becomes s.core s :=
  whenRxRow_selected _ started (decodeRxByte_of_wellFormed rfl wf)

theorem exec_rxErase (started : s.started = true) (wf : wellFormed s.par (.rxErase v) = true) :
    exec (.rxErase v) s = outcome (eraseAction s.par.cfg.eraseCode s.core) s :=
  whenRxRow_selected _ started (decodeRxByte_of_wellFormed rfl wf)

theorem exec_rxEraseBs (started : s.started = true) (wf : wellFormed s.par (.rxEraseBs v) = true) :
    exec (.rxEraseBs v) s = outcome (eraseAction s.par.bs s.core) s :=
  whenRxRow_selected _ started (decodeRxByte_of_wellFormed rfl wf)

theorem exec_rxKill (started : s.started = true) (wf : wellFormed s.par (.rxKill v) = true) :
    exec (.rxKill v) s = outcome (killAction s.par.cfg.killCode s.core) s :=
  whenRxRow_selected _ started (decodeRxByte_of_wellFormed rfl wf)

theorem exec_rxWerase (started : s.started = true) (wf : wellFormed s.par (.rxWerase v) = true) :
    exec (.rxWerase v) s = outcome (weraseAction s.par.cfg.weraseCode s.core) s :=
  whenRxRow_selected _ started (decodeRxByte_of_wellFormed rfl wf)

theorem exec_rxNl (started : s.started = true) (wf : wellFormed s.par (.rxNl v) = true) :
    exec (.rxNl v) s = becomes (admitAction s.par.nl s.core) s :=
  whenRxRow_selected _ started (decodeRxByte_of_wellFormed rfl wf)

theorem exec_rxOrd (started : s.started = true) (wf : wellFormed s.par (.rxOrd v) = true) :
    exec (.rxOrd v) s = becomes (admitAction (receivedByte s.par v) s.core) s :=
  whenRxRow_selected _ started (decodeRxByte_of_wellFormed rfl wf)

theorem exec_rx (started : s.started = true) : exec (.rx v) s = outcome (receive v s.core) s :=
  whenStarted_started _ started

end Rows

/-! ### Steps 1 and 3 of R130 -/

theorem receive_xoff {v : Byte} {s : CoreState} (flow : s.par.cfg.flow = true) (xoff : v = s.par.xoff) :
    receive v s = .ok (pauseOutput s) := by
  rw [receive, if_pos flow, if_pos xoff]

theorem receive_xon {v : Byte} {s : CoreState} (flow : s.par.cfg.flow = true) (xon : v = s.par.xon)
    (notXoff : v ≠ s.par.xoff) : receive v s = .ok (resumeOutput s) := by
  rw [receive, if_pos flow, if_neg notXoff, if_pos xon]

/-- A byte flow control does not take goes on to step 2. -/
theorem receive_pastFlow {v : Byte} {s : CoreState} (past : s.par.cfg.flow = true → v ≠ s.par.xoff ∧ v ≠ s.par.xon) :
    receive v s = steps2to6 v s := by
  rw [receive]
  split
  case isTrue flow =>
    obtain ⟨notXoff, notXon⟩ := past flow
    rw [if_neg notXoff, if_neg notXon]
  case isFalse => rfl

theorem receive_ignoredCr {v : Byte} {s : CoreState} (past : s.par.cfg.flow = true → v ≠ s.par.xoff ∧ v ≠ s.par.xon)
    (igncr : s.par.cfg.igncr = true) (cr : stripByte s.par v = s.par.cr) : receive v s = .ok s := by
  rw [receive_pastFlow past, steps2to6, if_pos ⟨igncr, cr⟩]

/-- Settles O18: the byte is well-formed for the row, and step 1 of `RX` takes it. -/
theorem xoffHaltsOutput : Obligations.XoffHaltsOutput := by
  intro s v started flow xoff
  have wf : wellFormed s.par (.rxXoff v) = true := by simp [wellFormed, takenByXoff, flow, xoff]
  exact ⟨exec_rxXoff started wf, by rw [exec_rx started, receive_xoff flow xoff]; rfl⟩

/-- Settles O19: the decode and step 1 of `RX` both try `XOFF` first, which the byte is not. -/
theorem xonResumesOutput : Obligations.XonResumesOutput := by
  intro s v started flow xon notXoff
  have wf : wellFormed s.par (.rxXon v) = true := by simp [wellFormed, takenByXon, takenByXoff, flow, ← xon, notXoff]
  exact ⟨exec_rxXon started wf, by rw [exec_rx started, receive_xon flow xon notXoff]; rfl⟩

/-- Settles O20: flow control leaves the byte in the decode and in step 1 alike, and what is left is the `CR`. -/
theorem ignoredCrChangesNothing : Obligations.IgnoredCrChangesNothing := by
  intro s v started past igncr cr
  have wf : wellFormed s.par (.rxIgncr v) = true := by
    cases flow : s.par.cfg.flow
    case false => simp [wellFormed, takenByIgncr, takenByXoff, takenByXon, flow, igncr, cr]
    case true => simp [wellFormed, takenByIgncr, takenByXoff, takenByXon, past flow, igncr, cr]
  exact ⟨exec_rxIgncr started wf, by rw [exec_rx started, receive_ignoredCr past igncr cr]; rfl⟩

end Machine

end Sys2Proof

/-!
PROOF. What the receive engine puts into `TXBUF`: one enqueue after another (R144), of which `TXBUF` keeps those it has room
for; `Echo` (R145) and the bell of a refused byte (R143) are such enqueues; from these, the byte without room.
-/

namespace Sys2Proof

namespace Machine

/-! ### One `put` after another, with or without room (R110, R144) -/

theorem ringPutAll_of_full {n : Nat} {r : Ring} (vs : List Byte) (full : cursorNext n r.tail = r.head) :
    ringPutAll n r vs = r := by
  induction vs with
  | nil => rfl
  | cons v vs ih => rw [ringPutAll_cons, ringPut, if_pos (ringIsFull_iff.mpr full), ih]

@[simp] theorem ringPutAll_head (n : Nat) (r : Ring) (vs : List Byte) : (ringPutAll n r vs).head = r.head := by
  induction vs generalizing r with
  | nil => rfl
  | cons v vs ih => rw [ringPutAll_cons, ih, ringPut_head]

/-- The resident bytes after the puts: those that found room follow the ones resident before. -/
theorem resident_ringPutAll_take {n : Nat} {r : Ring} (id : BufId) (vs : List Byte) (hr : ringOk n r) :
    resident id n (ringPutAll n r vs) = (resident id n r ++ vs).take (n - 1) := by
  induction vs generalizing r with
  | nil =>
    have ⟨hhead, _⟩ := hr
    have bound : ringCount n r < n := ringCount_lt (by omega)
    rw [ringPutAll_nil, List.append_nil, List.take_of_length_le (by rw [length_resident]; omega)]
  | cons v vs ih =>
    by_cases full : cursorNext n r.tail = r.head
    case pos =>
      have ⟨hhead, htail, _⟩ := hr
      have count : (resident id n r).length = n - 1 := by
        rw [length_resident, (ringCount_eq_pred_iff hhead htail).mpr full]
      rw [ringPutAll_of_full _ full, ← count, List.take_left]
    case neg =>
      have ok : (ringPut n r v).1 = .ok := by simp [ringPut, ringIsFull, full]
      rw [ringPutAll_cons, ih (ringOk_ringPut v hr), resident_ringPut id hr ok, List.append_assoc,
        List.singleton_append]

/-- Only the slots from the put cursor on are written, one a byte. -/
theorem slotByte_ringPutAll_other {n a : Nat} {r : Ring} {vs : List Byte} (id : BufId) (ha : a < n)
    (other : ∀ j, j < vs.length → a ≠ (r.tail + j) % n) :
    slotByte id n (ringPutAll n r vs) a = slotByte id n r a := by
  induction vs generalizing r with
  | nil => rfl
  | cons v vs ih =>
    rw [List.length_cons] at other
    obtain ⟨full, -⟩ | ⟨-, stored⟩ := ringPut_cases n r v
    · rw [ringPutAll_of_full _ full]
    · have notFirst : a % n ≠ r.tail % n := by
        rw [Nat.mod_eq_of_lt ha]
        exact other 0 (Nat.succ_pos _)
      rw [ringPutAll_cons, stored, ih, slotByte_memWrite, if_neg notFirst]
      intro j hj
      have notLater := other (j + 1) (Nat.succ_lt_succ hj)
      rwa [cursorNext, Nat.mod_add_mod, Nat.add_assoc, Nat.add_comm 1 j]

/-! ### One enqueue after another (R144) -/

/-- The core after `TxEnqueue` of each byte in turn, the results dropped. -/
def enqueueAll (ws : List Byte) (s : CoreState) : CoreState := ws.foldl (fun t w => enqueue w t) s

@[simp] theorem enqueueAll_nil (s : CoreState) : enqueueAll [] s = s := rfl

@[simp] theorem enqueueAll_cons (w : Byte) (ws : List Byte) (s : CoreState) :
    enqueueAll (w :: ws) s = enqueueAll ws (enqueue w s) := rfl

/-- Enqueues write `TXBUF` and, when there is one, set `TXIE`. -/
theorem enqueueAll_eq (ws : List Byte) (s : CoreState) :
    enqueueAll ws s =
      setTxIrq (s.txie || !ws.isEmpty) (setTxbuf (ringPutAll s.par.nTx s.txbuf ws) s) := by
  induction ws generalizing s with
  | nil => simp [setTxIrq, setTxbuf]
  | cons w ws ih => simp [ih, enqueue_eq, setTxIrq, setTxbuf]

theorem echo_eq (b : Byte) (s : CoreState) : echo b s = enqueueAll (echoBytes s.par b) s := by
  unfold echo echoBytes
  split_ifs <;> rfl

theorem refuseByte_eq (s : CoreState) :
    refuseByte s = enqueueAll (if s.par.cfg.bell = true then [s.par.bel] else []) s := by
  unfold refuseByte
  split <;> rfl

theorem echoTrigger_eq (isKill : Bool) (removed : List Byte) (b : Byte) (s : CoreState) :
    echoTrigger (visualFlag s.par isKill) removed.length b s =
      enqueueAll (triggerEcho s.par isKill b removed) s := by
  cases removed <;> cases visual : visualFlag s.par isKill <;> simp [echoTrigger, triggerEcho, visual, echo_eq]

/-- Enqueues in a core whose `TXBUF` is still that of `s` are appended to it. -/
theorem txAppends_enqueueAll {s : State} {c : CoreState} (ws : List Byte) (hr : ringOk s.par.nTx s.txbuf)
    (par : c.par = s.par) (txbuf : c.txbuf = s.txbuf) : txAppends s (withCore (enqueueAll ws c) s) ws := by
  have appended : (enqueueAll ws c).txbuf = ringPutAll s.par.nTx s.txbuf ws := by
    rw [enqueueAll_eq, par, txbuf]; rfl
  have parKept : (enqueueAll ws c).par = s.par := by rw [enqueueAll_eq]; exact par
  refine ⟨?resident, ?head, fun a ha other => ?slots⟩
  case resident =>
    rw [withCore_core, txResident, parKept, appended]
    exact resident_ringPutAll_take .tx ws hr
  case head => rw [withCore_txbuf, appended, ringPutAll_head]
  case slots =>
    rw [withCore_core, txSlot, parKept, appended]
    exact slotByte_ringPutAll_other .tx ha other

/-! ### A byte without room (R141, R143) -/

theorem admitAction_of_noRoom {b : Byte} {s : CoreState}
    (noRoom : ringFree s.par.nRx s.rxbuf < slotsNeeded s.par b) :
    admitAction b s = enqueueAll (if s.par.cfg.bell = true then [s.par.bel] else []) s := by
  have refused : isAdmitted b s = false := by simpa [isAdmitted] using noRoom
  rw [admitAction, refused, ← refuseByte_eq]
  rfl

theorem slotsNeeded_nl (p : Params) : slotsNeeded p p.nl = 1 := by simp [slotsNeeded]

theorem slotsNeeded_of_ne_nl {p : Params} {b : Byte} (h : b ≠ p.nl) :
    slotsNeeded p b = if p.cfg.canonical = true then 2 else 1 := by
  simp [slotsNeeded, h]

theorem receivedByte_ne_nl_of_wellFormed {p : Params} {v : Byte} (wf : wellFormed p (.rxOrd v) = true) :
    receivedByte p v ≠ p.nl := by
  simp only [wellFormed, Bool.and_eq_true, Bool.not_eq_true', beq_eq_false_iff_ne] at wf
  obtain ⟨⟨-, notNl⟩, -⟩ := wf
  exact notNl

/-- An ordinary byte or an `NL` that finds too few free slots is lost, and only the bell is enqueued. -/
theorem exec_admission_of_noRoom {s : State} {v : Byte} {i : Instr} (started : s.started = true)
    (wf : wellFormed s.par i = true)
    (noRoom : i = .rxOrd v ∧ ringFree s.par.nRx s.rxbuf < (if s.par.cfg.canonical = true then 2 else 1) ∨
      i = .rxNl v ∧ ringFree s.par.nRx s.rxbuf < 1) :
    exec i s = becomes (enqueueAll (if s.par.cfg.bell = true then [s.par.bel] else []) s.core) s := by
  obtain ⟨rfl, few⟩ | ⟨rfl, none⟩ := noRoom
  · rw [exec_rxOrd started wf, admitAction_of_noRoom]
    rwa [slotsNeeded_of_ne_nl (receivedByte_ne_nl_of_wellFormed wf)]
  · rw [exec_rxNl started wf, admitAction_of_noRoom]
    rwa [slotsNeeded_nl]

/-- Settles O24: a refused byte does nothing but enqueue the bell, if there is one. -/
theorem byteWithoutRoomRingsBell : Obligations.ByteWithoutRoomRingsBell := by
  intro s v i started shape wf noRoom
  obtain ⟨-, rings⟩ := shape
  obtain ⟨-, txOk⟩ := rings started
  have bell := enqueueAll_eq (if s.par.cfg.bell = true then [s.par.bel] else []) s.core
  refine ⟨_, exec_admission_of_noRoom started wf noRoom, ?keeps, ?rxbuf, txAppends_enqueueAll _ txOk rfl rfl, ?txie,
    ?rest⟩
  case keeps => rw [bell]; simp [rxKeeps]
  case rxbuf => rw [bell]; rfl
  case txie =>
    rw [bell]
    cases h : s.par.cfg.bell <;> simp
  case rest => rw [bell]; exact ⟨rfl, rfl, rfl⟩

end Machine

end Sys2Proof

/-!
PROOF. The erase coordinator where `EraseBacklog` has room (R160 to R165): taking characters back is one relation between the
core before and after; it holds of a `RetractOne` that erases or stops, it composes, and so it holds of a sweep (R163).
-/

namespace Sys2Proof

namespace Machine

/-! ### Taking back the newest resident byte (R112) -/

theorem resident_eq_nil_iff {id : BufId} {n : Nat} {r : Ring} (hr : ringOk n r) :
    resident id n r = [] ↔ r.head = r.tail := by
  obtain ⟨hhead, htail, -⟩ := hr
  rw [← List.length_eq_zero_iff, length_resident, ringCount_eq_zero_iff hhead htail]

/-- An `unput` that yields a byte yields the newest, and leaves the others resident. -/
theorem resident_ringUnput {id : BufId} {n : Nat} {r : Ring} {v : Byte} (hr : ringOk n r)
    (h : (ringUnput id n r).1 = .byte v) : resident id n (ringUnput id n r).2 ++ [v] = resident id n r := by
  have ⟨_, htail, _⟩ := hr
  have putBack := ringPut_ringUnput htail h
  have slots := slotByte_ringPut_ringUnput htail h
  rw [← resident_ringPut id (ringOk_ringUnput id hr) (by rw [putBack])]
  rw [putBack] at slots ⊢
  exact List.map_congr_left fun i _ => slots _

/-- Everything `unput` does where `c` is the newest byte. -/
theorem ringUnput_of_newest {id : BufId} {n : Nat} {r : Ring} {l : List Byte} {c : Byte} (hr : ringOk n r)
    (newest : resident id n r = l ++ [c]) :
    ∃ q, ringUnput id n r = (.byte c, q) ∧ ringOk n q ∧ q.head = r.head ∧
      resident id n q ++ [c] = resident id n r ∧ ∀ a, slotByte id n q a = slotByte id n r a := by
  obtain ⟨empty, -⟩ | ⟨-, taken⟩ := ringUnput_cases id n r
  · simp [(resident_eq_nil_iff hr).mpr empty] at newest
  · have older := resident_ringUnput hr (congrArg Prod.fst taken)
    obtain ⟨-, same⟩ := List.append_inj' (older.trans newest) rfl
    rw [List.singleton_inj] at same
    exact ⟨(ringUnput id n r).2, by rw [← same, taken], ringOk_ringUnput id hr, ringUnput_head id n r, same ▸ older,
      fun a => by simp [slotByte]⟩

/-- Putting back what `unput` took leaves everything that can be read as it was. -/
theorem ringPut_back {id : BufId} {n : Nat} {r q : Ring} {c : Byte} (hr : ringOk n r)
    (unput : ringUnput id n r = (.byte c, q)) :
    resident id n (ringPut n q c).2 = resident id n r ∧
      ∀ a, slotByte id n (ringPut n q c).2 a = slotByte id n r a := by
  have ⟨_, htail, _⟩ := hr
  have byte : (ringUnput id n r).1 = .byte c := by rw [unput]
  have ringKept := ringOk_ringUnput id hr
  have older := resident_ringUnput hr byte
  have stored := ringPut_ringUnput htail byte
  have slotsKept := slotByte_ringPut_ringUnput htail byte
  rw [unput] at ringKept older stored slotsKept
  exact ⟨(resident_ringPut id ringKept (by rw [stored])).trans older, slotsKept⟩

/-! ### The accounting of an erased character (R162) -/

@[simp] theorem columnsOwed_nil (p : Params) (isKill : Bool) : columnsOwed p isKill [] = 0 := by simp [columnsOwed]

theorem columnsOwed_append (p : Params) (isKill : Bool) (cs ds : List Byte) :
    columnsOwed p isKill (cs ++ ds) = columnsOwed p isKill cs + columnsOwed p isKill ds := by
  unfold columnsOwed
  split <;> simp

theorem backlogIncs_of_room {k : Nat} {s : CoreState} (room : s.eraseBacklog + k < 2 ^ s.par.ebW) :
    backlogIncs k s = .ok (setEraseBacklog (s.eraseBacklog + k) s) := by
  induction k generalizing s with
  | zero => rfl
  | succ k ih =>
    obtain ⟨overflow, -⟩ | ⟨-, counted⟩ := backlogInc_cases s
    · omega
    · simp only [backlogIncs, counted]
      rw [ih (by simpa [Nat.add_assoc, Nat.add_comm 1 k] using room)]
      simp [setEraseBacklog, Nat.add_assoc, Nat.add_comm 1 k]

theorem backlogAdd_of_room {c : Byte} {isKill : Bool} {s : CoreState}
    (room : s.eraseBacklog + columnsOwed s.par isKill [c] < 2 ^ s.par.ebW) :
    backlogAdd c isKill s =
      .ok (setTxIrq (s.txie || visualFlag s.par isKill)
        (setEraseBacklog (s.eraseBacklog + columnsOwed s.par isKill [c]) s)) := by
  cases visual : visualFlag s.par isKill
  case false => simp [backlogAdd, columnsOwed, visual, setTxIrq, setEraseBacklog]
  case true =>
    have owed : columnsOwed s.par isKill [c] = columns s.par c := by simp [columnsOwed, visual]
    rw [owed] at room ⊢
    simp [backlogAdd, visual, backlogIncs_of_room room]

/-! ### The characters taken back, as a relation -/

/-- `t` is `s` after the erase coordinator has removed `removed`, newest first, from `RXBUF` (R160 to R163): its put cursor
moved back past them, their columns accounted for, and nothing else changed that can be read. -/
structure Retracted (isKill : Bool) (removed : List Byte) (s t : CoreState) : Prop where
  core : t = setTxIrq (s.txie || (visualFlag s.par isKill && !removed.isEmpty))
    (setEraseBacklog (s.eraseBacklog + columnsOwed s.par isKill removed) (setRxbuf t.rxbuf s))
  ring : ringOk s.par.nRx t.rxbuf
  head : t.rxbuf.head = s.rxbuf.head
  slots : ∀ a, slotByte .rx s.par.nRx t.rxbuf a = slotByte .rx s.par.nRx s.rxbuf a
  residents : resident .rx s.par.nRx t.rxbuf ++ removed.reverse = rxResident s

namespace Retracted

variable {isKill : Bool} {cs ds : List Byte} {s t u : CoreState}

theorem par (h : Retracted isKill cs s t) : t.par = s.par := by rw [h.core]; rfl

theorem eraseBacklog (h : Retracted isKill cs s t) :
    t.eraseBacklog = s.eraseBacklog + columnsOwed s.par isKill cs := by rw [h.core]; rfl

theorem txie (h : Retracted isKill cs s t) : t.txie = (s.txie || (visualFlag s.par isKill && !cs.isEmpty)) := by
  rw [h.core]; rfl

theorem refl (isKill : Bool) (hr : ringOk s.par.nRx s.rxbuf) : Retracted isKill [] s s where
  core := by simp [setTxIrq, setEraseBacklog, setRxbuf]
  ring := hr
  head := rfl
  slots _ := rfl
  residents := by simp [rxResident]

theorem trans (hst : Retracted isKill cs s t) (htu : Retracted isKill ds t u) : Retracted isKill (cs ++ ds) s u where
  core := by
    have later := htu.core
    rw [hst.txie, hst.eraseBacklog, hst.par, hst.core] at later
    rw [columnsOwed_append, ← Nat.add_assoc, later]
    cases visualFlag s.par isKill <;> cases cs <;> simp [setTxIrq, setEraseBacklog, setRxbuf]
  ring := hst.par ▸ htu.ring
  head := htu.head.trans hst.head
  slots a := (hst.par ▸ htu.slots a).trans (hst.slots a)
  residents := by
    have later := htu.residents
    rw [rxResident, hst.par] at later
    rw [List.reverse_append, ← List.append_assoc, later, hst.residents]

end Retracted

/-! ### `RetractOne` (R160, R161) -/

section RetractOne

variable {stop : Stop} {isKill : Bool} {s : CoreState} {l : List Byte} {c : Byte}

theorem retractOne_of_empty (hr : ringOk s.par.nRx s.rxbuf) (none : rxResident s = []) :
    retractOne stop isKill s = .ok (false, s) := by
  obtain ⟨-, nothing⟩ | ⟨_, _, nonempty, -⟩ := retractOne_cases stop isKill s
  · exact nothing
  · exact absurd ((resident_eq_nil_iff hr).mp none) nonempty

/-- A newest byte that stops it is put back. -/
theorem retractOne_of_stopping (hr : ringOk s.par.nRx s.rxbuf) (newest : rxResident s = l ++ [c])
    (stopping : c = s.par.nl ∨ stops s.par stop c = true) :
    ∃ t, retractOne stop isKill s = .ok (false, t) ∧ Retracted isKill [] s t := by
  obtain ⟨q, unput, ringKept, headKept, -⟩ := ringUnput_of_newest hr newest
  obtain ⟨back, slotsKept⟩ := ringPut_back hr unput
  refine ⟨rxPut c (setRxbuf q s), by simp only [retractOne, unput]; exact if_pos stopping, ?_⟩
  exact {
    core := by simp [rxPut, setTxIrq, setEraseBacklog, setRxbuf]
    ring := ringOk_ringPut c ringKept
    head := (ringPut_head _ _ _).trans headKept
    slots := slotsKept
    residents := (List.append_nil _).trans back }

/-- Any other newest byte is erased and accounted for. -/
theorem retractOne_of_erasable (hr : ringOk s.par.nRx s.rxbuf) (newest : rxResident s = l ++ [c])
    (erasable : ¬(c = s.par.nl ∨ stops s.par stop c = true))
    (room : s.eraseBacklog + columnsOwed s.par isKill [c] < 2 ^ s.par.ebW) :
    ∃ t, retractOne stop isKill s = .ok (true, t) ∧ Retracted isKill [c] s t := by
  obtain ⟨q, unput, ringKept, headKept, older, slotsKept⟩ := ringUnput_of_newest hr newest
  have added : backlogAdd c isKill (setRxbuf q s) = _ := backlogAdd_of_room room
  refine ⟨_, by simp only [retractOne, unput]; rw [if_neg erasable, added], ?_⟩
  exact {
    core := by simp [setTxIrq, setEraseBacklog, setRxbuf]
    ring := ringKept
    head := headKept
    slots := slotsKept
    residents := older }

end RetractOne

/-! ### What a sweep removes and leaves (R161, R163) -/

@[simp] theorem sweepRemoves_nil (p : Params) (stop : Stop) : sweepRemoves p stop [] = [] := rfl

theorem sweepRemoves_concat_of_stopping {p : Params} {stop : Stop} {l : List Byte} {c : Byte}
    (stopping : c = p.nl ∨ stops p stop c = true) : sweepRemoves p stop (l ++ [c]) = [] := by
  have notTaken : (c != p.nl && !stops p stop c) = false := by
    obtain rfl | stopping := stopping
    · simp
    · simp [stopping]
  simp [sweepRemoves, notTaken]

theorem sweepRemoves_concat_of_erasable {p : Params} {stop : Stop} {l : List Byte} {c : Byte}
    (erasable : ¬(c = p.nl ∨ stops p stop c = true)) :
    sweepRemoves p stop (l ++ [c]) = c :: sweepRemoves p stop l := by
  obtain ⟨notNl, notStopping⟩ := not_or.mp erasable
  simp [sweepRemoves, notNl, notStopping]

theorem sweepLeaves_append_sweepRemoves (p : Params) (stop : Stop) (l : List Byte) :
    sweepLeaves p stop l ++ (sweepRemoves p stop l).reverse = l := by
  rw [sweepLeaves, sweepRemoves, ← List.reverse_append, List.takeWhile_append_dropWhile, List.reverse_reverse]

/-! ### `RetractUntil` (R163) -/

/-- With fuel for every resident byte and one call more, a sweep removes what the views say. -/
theorem retractFuel_of_room {fuel : Nat} {stop : Stop} {isKill : Bool} {s : CoreState} (hr : ringOk s.par.nRx s.rxbuf)
    (enough : (rxResident s).length < fuel)
    (room : s.eraseBacklog + columnsOwed s.par isKill (sweepRemoves s.par stop (rxResident s)) < 2 ^ s.par.ebW) :
    ∃ t, retractFuel fuel stop isKill s = .ok ((sweepRemoves s.par stop (rxResident s)).length, t) ∧
      Retracted isKill (sweepRemoves s.par stop (rxResident s)) s t := by
  induction fuel generalizing s with
  | zero => omega
  | succ fuel ih =>
    rw [retractFuel_succ]
    obtain none | ⟨l, c, newest⟩ := (rxResident s).eq_nil_or_concat'
    · rw [retractOne_of_empty hr none, none]
      exact ⟨s, rfl, .refl isKill hr⟩
    by_cases stopping : c = s.par.nl ∨ stops s.par stop c = true
    case pos =>
      obtain ⟨t, stopped, kept⟩ := retractOne_of_stopping (isKill := isKill) hr newest stopping
      rw [stopped, newest, sweepRemoves_concat_of_stopping stopping]
      exact ⟨t, rfl, kept⟩
    case neg =>
      rw [newest, sweepRemoves_concat_of_erasable stopping] at room ⊢
      rw [← List.singleton_append, columnsOwed_append] at room
      obtain ⟨t, erased, first⟩ := retractOne_of_erasable hr newest stopping (isKill := isKill) (by omega)
      have rest : rxResident t = l := by
        have older := first.residents.trans newest
        rw [rxResident, first.par]
        exact List.append_cancel_right older
      rw [newest, List.length_append, List.length_singleton] at enough
      obtain ⟨u, swept, later⟩ := ih (s := t) (first.par ▸ first.ring) (by rw [rest]; omega)
        (by rw [rest, first.par, first.eraseBacklog]; omega)
      rw [rest, first.par] at swept later
      rw [erased]
      simp only [swept]
      exact ⟨u, rfl, first.trans later⟩

theorem retractUntil_of_room {stop : Stop} {isKill : Bool} {s : CoreState} (hr : ringOk s.par.nRx s.rxbuf)
    (room : s.eraseBacklog + columnsOwed s.par isKill (sweepRemoves s.par stop (rxResident s)) < 2 ^ s.par.ebW) :
    ∃ t, retractUntil stop isKill s = .ok ((sweepRemoves s.par stop (rxResident s)).length, t) ∧
      Retracted isKill (sweepRemoves s.par stop (rxResident s)) s t :=
  retractFuel_of_room hr (by rw [rxResident, length_resident]; exact Nat.lt_succ_self _) room

end Machine

end Sys2Proof

/-!
PROOF. The rows that erase (R138 to R140): each action takes back the characters its rule names and then echoes its trigger
where the visual flag is off; from these, erase, kill and word-erase.
-/

namespace Sys2Proof

namespace Machine

/-! ### What an erase and a word-erase leave (R138, R140) -/

theorem eraseLeaves_append_eraseRemoves (p : Params) (l : List Byte) :
    eraseLeaves p l ++ (eraseRemoves p l).reverse = l := by
  obtain rfl | ⟨l, c, rfl⟩ := l.eq_nil_or_concat'
  · rfl
  · by_cases nl : c = p.nl <;> simp [eraseLeaves, eraseRemoves, nl]

theorem weraseLeaves_append_weraseRemoves (p : Params) (l : List Byte) :
    weraseLeaves p l ++ (weraseRemoves p l).reverse = l := by
  rw [weraseLeaves, weraseRemoves, List.reverse_append, ← List.append_assoc, sweepLeaves_append_sweepRemoves,
    sweepLeaves_append_sweepRemoves]

theorem Retracted.rxResident_eq {isKill : Bool} {left removed : List Byte} {s t : CoreState}
    (h : Retracted isKill removed s t) (split : left ++ removed.reverse = rxResident s) : rxResident t = left := by
  rw [rxResident, h.par]
  exact List.append_cancel_right (h.residents.trans split.symm)

/-! ### The actions, where `EraseBacklog` has room -/

section Actions

variable {s : CoreState}

/-- With no stop strategy a `RetractOne` erases what the view of an erase says. -/
theorem retractOne_none_of_room (hr : ringOk s.par.nRx s.rxbuf)
    (room : s.eraseBacklog + columnsOwed s.par false (eraseRemoves s.par (rxResident s)) < 2 ^ s.par.ebW) :
    ∃ e t, retractOne .none false s = .ok (e, t) ∧ e.toNat = (eraseRemoves s.par (rxResident s)).length ∧
      Retracted false (eraseRemoves s.par (rxResident s)) s t := by
  obtain none | ⟨l, c, newest⟩ := (rxResident s).eq_nil_or_concat'
  · rw [none]
    exact ⟨false, s, retractOne_of_empty hr none, rfl, .refl false hr⟩
  by_cases nl : c = s.par.nl
  case pos =>
    have removes : eraseRemoves s.par (rxResident s) = [] := by simp [newest, eraseRemoves, nl]
    obtain ⟨t, stopped, kept⟩ := retractOne_of_stopping (stop := .none) (isKill := false) hr newest (.inl nl)
    exact ⟨false, t, stopped, by rw [removes]; rfl, removes ▸ kept⟩
  case neg =>
    have removes : eraseRemoves s.par (rxResident s) = [c] := by simp [newest, eraseRemoves, nl]
    rw [removes] at room ⊢
    obtain ⟨t, erased, taken⟩ := retractOne_of_erasable (stop := .none) hr newest (by simp [nl, stops]) room
    exact ⟨true, t, erased, rfl, taken⟩

/-- The trigger of an event that has removed `cs` is echoed as the view says. -/
theorem Retracted.echoTrigger_eq {isKill : Bool} {cs : List Byte} {t : CoreState} (h : Retracted isKill cs s t)
    (b : Byte) :
    echoTrigger (visualFlag s.par isKill) cs.length b t = enqueueAll (triggerEcho s.par isKill b cs) t := by
  rw [← h.par]
  exact Machine.echoTrigger_eq isKill cs b t

theorem eraseAction_of_room (b : Byte) (hr : ringOk s.par.nRx s.rxbuf)
    (room : s.eraseBacklog + columnsOwed s.par false (eraseRemoves s.par (rxResident s)) < 2 ^ s.par.ebW) :
    ∃ t, Retracted false (eraseRemoves s.par (rxResident s)) s t ∧
      eraseAction b s = .ok (enqueueAll (triggerEcho s.par false b (eraseRemoves s.par (rxResident s))) t) := by
  obtain ⟨e, t, erased, count, taken⟩ := retractOne_none_of_room hr room
  refine ⟨t, taken, ?_⟩
  rw [← taken.echoTrigger_eq, ← count]
  simp only [eraseAction, erased]
  rfl

theorem killAction_of_room (b : Byte) (hr : ringOk s.par.nRx s.rxbuf)
    (room : s.eraseBacklog + columnsOwed s.par true (sweepRemoves s.par .none (rxResident s)) < 2 ^ s.par.ebW) :
    ∃ t, Retracted true (sweepRemoves s.par .none (rxResident s)) s t ∧
      killAction b s = .ok (enqueueAll (triggerEcho s.par true b (sweepRemoves s.par .none (rxResident s))) t) := by
  obtain ⟨t, swept, taken⟩ := retractUntil_of_room hr room
  refine ⟨t, taken, ?_⟩
  rw [← taken.echoTrigger_eq]
  simp only [killAction, swept]
  rfl

theorem weraseAction_of_room (b : Byte) (hr : ringOk s.par.nRx s.rxbuf)
    (room : s.eraseBacklog + columnsOwed s.par false (weraseRemoves s.par (rxResident s)) < 2 ^ s.par.ebW) :
    ∃ t, Retracted false (weraseRemoves s.par (rxResident s)) s t ∧
      weraseAction b s = .ok (enqueueAll (triggerEcho s.par false b (weraseRemoves s.par (rxResident s))) t) := by
  rw [weraseRemoves, columnsOwed_append] at room
  obtain ⟨t, spacesSwept, spaces⟩ := retractUntil_of_room (stop := .atNonSpace) (isKill := false) hr (by omega)
  have left : rxResident t = sweepLeaves s.par .atNonSpace (rxResident s) :=
    spaces.rxResident_eq (sweepLeaves_append_sweepRemoves _ _ _)
  obtain ⟨u, wordSwept, word⟩ := retractUntil_of_room (s := t) (stop := .atSpace) (isKill := false)
    (spaces.par ▸ spaces.ring) (by rw [left, spaces.par, spaces.eraseBacklog]; omega)
  rw [left, spaces.par] at wordSwept word
  have taken : Retracted false (weraseRemoves s.par (rxResident s)) s u := spaces.trans word
  refine ⟨u, taken, ?_⟩
  rw [← taken.echoTrigger_eq, weraseRemoves, List.length_append]
  simp only [weraseAction, spacesSwept, wordSwept]
  rfl

end Actions

/-! ### The outcome of an erase, kill or word-erase event -/

/-- Everything the erase coordinator and the enqueues after it write, in terms of the core before the event. -/
theorem Retracted.enqueueAll_eq {isKill : Bool} {removed : List Byte} {s t : CoreState} (h : Retracted isKill removed s t)
    (ws : List Byte) :
    enqueueAll ws t =
      setTxIrq (s.txie || (visualFlag s.par isKill && !removed.isEmpty) || !ws.isEmpty)
        (setTxbuf (ringPutAll s.par.nTx s.txbuf ws)
          (setEraseBacklog (s.eraseBacklog + columnsOwed s.par isKill removed) (setRxbuf t.rxbuf s))) := by
  rw [Machine.enqueueAll_eq, h.core]
  rfl

theorem erasedOutcome_of_retracted {s : State} {t : CoreState} {isKill : Bool} {left removed : List Byte} (b : Byte)
    (txOk : ringOk s.par.nTx s.txbuf) (h : Retracted isKill removed s.core t)
    (split : left ++ removed.reverse = rxResident s.core) :
    erasedOutcome s (withCore (enqueueAll (triggerEcho s.par isKill b removed) t) s) isKill b left removed := by
  have appended := txAppends_enqueueAll (triggerEcho s.par isKill b removed) txOk h.par (by rw [h.core]; rfl)
  have left_eq := h.rxResident_eq split
  rw [rxResident, h.par] at left_eq
  rw [h.enqueueAll_eq] at appended ⊢
  refine ⟨?keeps, fun a _ => h.slots a, left_eq, rfl, rfl, rfl, appended, rfl⟩
  case keeps => exact ⟨rfl, h.head, ringPutAll_head _ _ _, rfl, rfl, rfl, rfl, rfl, rfl, rfl, rfl⟩

/-- An event whose action takes back `removed` and echoes its trigger completes. -/
theorem outcome_erased {s : State} {act : Except Fault CoreState} {isKill : Bool} {b : Byte} {left removed : List Byte}
    (started : s.started = true) (shape : shapeOk s) (split : left ++ removed.reverse = rxResident s.core)
    (acts : ∃ t, Retracted isKill removed s.core t ∧ act = .ok (enqueueAll (triggerEcho s.par isKill b removed) t)) :
    ∃ u, outcome act s = .next u ∧ erasedOutcome s u isKill b left removed := by
  obtain ⟨-, rings⟩ := shape
  obtain ⟨-, txOk⟩ := rings started
  obtain ⟨t, taken, rfl⟩ := acts
  exact ⟨_, rfl, erasedOutcome_of_retracted b txOk taken split⟩

/-- Settles O25: both triggers run the one action, which erases what the view of an erase says. -/
theorem eraseRemovesNewestCharacter : Obligations.EraseRemovesNewestCharacter := by
  intro s v started shape room
  have ⟨_, rings⟩ := shape
  obtain ⟨rxOk, -⟩ := rings started
  have split := eraseLeaves_append_eraseRemoves s.par (rxResident s.core)
  refine ⟨fun wf => ?byCode, fun wf => ?byBackspace⟩
  case byCode =>
    rw [exec_rxErase started wf]
    exact outcome_erased started shape split (eraseAction_of_room _ rxOk room)
  case byBackspace =>
    rw [exec_rxEraseBs started wf]
    exact outcome_erased started shape split (eraseAction_of_room _ rxOk room)

/-- Settles O26: one sweep that nothing but an `NL` stops. -/
theorem killEmptiesCurrentLine : Obligations.KillEmptiesCurrentLine := by
  intro s v started shape wf room
  have ⟨_, rings⟩ := shape
  obtain ⟨rxOk, -⟩ := rings started
  rw [exec_rxKill started wf]
  exact outcome_erased started shape (sweepLeaves_append_sweepRemoves _ _ _) (killAction_of_room _ rxOk room)

/-- Settles O27: a sweep of spaces, then a sweep of what the first one left. -/
theorem wordEraseRemovesLastWord : Obligations.WordEraseRemovesLastWord := by
  intro s v started shape wf room
  have ⟨_, rings⟩ := shape
  obtain ⟨rxOk, -⟩ := rings started
  rw [exec_rxWerase started wf]
  exact outcome_erased started shape (weraseLeaves_append_weraseRemoves _ _) (weraseAction_of_room _ rxOk room)

end Machine

end Sys2Proof

/-!
PROOF. One firing of the transmit engine (R180 to R190): the branch a state takes, as a relation between the core before and
after; the decode of R94 selects it and the steps of R188 run it; from this, what each branch does and that it sends at most
one byte.
-/

namespace Sys2Proof

/-! ### The branch a key selects (R94, R95) -/

/-- The six masked rows of R95 are the order of R94. -/
theorem decodeTxKey_txKeyOf (halt plf replay backlog data : Bool) :
    decodeTxKey (Machine.txKeyOf halt plf replay backlog data) =
      if halt then .txHalt else if plf then .txLf else if replay then .txErasen else if backlog then .txErase0
      else if data then .txData else .txIdle := by
  revert halt plf replay backlog data
  decide

namespace Machine

/-! ### The work outstanding (R191) -/

theorem workOutstanding_eq_false_iff {s : CoreState} :
    workOutstanding s = false ↔
      s.pendingLineFeed = false ∧ s.eraseState = .idle ∧ s.eraseBacklog = 0 ∧ s.txbuf.head = s.txbuf.tail := by
  simp [workOutstanding, ringIsEmpty, and_assoc]

/-! ### The steps of R188 -/

theorem fire_pastLineFeed {s : CoreState} (running : s.haltOutput = false) (noLf : s.pendingLineFeed = false) :
    fire s = steps3to6 s := by
  simp [fire, running, noLf]

theorem startReplay_of_idle {s : CoreState} (backlog : 0 < s.eraseBacklog) (noReplay : s.eraseState = .idle) :
    startReplay s = setEraseState .sendBackspace1 (setEraseBacklog (s.eraseBacklog - 1) s) :=
  if_pos ⟨backlog, noReplay⟩

theorem steps3to6_of_replaying {s : CoreState} (replaying : s.eraseState ≠ .idle) : steps3to6 s = replayByte s := by
  simp [steps3to6, startReplay, replaying]

theorem steps3to6_of_noErase {s : CoreState} (noReplay : s.eraseState = .idle) (noBacklog : s.eraseBacklog = 0) :
    steps3to6 s = dataOrIdle s := by
  simp [steps3to6, startReplay, noReplay, noBacklog]

theorem dataOrIdle_of_nonempty {s : CoreState} (nonempty : s.txbuf.head ≠ s.txbuf.tail) :
    dataOrIdle s = sendData s := by
  obtain ⟨empty, -⟩ | ⟨-, taken⟩ := ringGet_cases .tx s.par.nTx s.txbuf
  · exact absurd empty nonempty
  · simp only [dataOrIdle, taken]
    rfl

theorem dataOrIdle_of_empty {s : CoreState} (empty : s.txbuf.head = s.txbuf.tail) :
    dataOrIdle s = setTxIrq false s := by
  obtain ⟨-, nothing⟩ | ⟨nonempty, -⟩ := ringGet_cases .tx s.par.nTx s.txbuf
  · simp only [dataOrIdle, nothing]
  · exact absurd empty nonempty

/-! ### The branches of a firing (R181 to R187) -/

/-- A firing of the core `s` takes the branch `row` and leaves the core `c`. -/
inductive FiringBranch (s : CoreState) : Instr → CoreState → Prop
  | halted (halted : s.haltOutput = true) : FiringBranch s .txHalt (setTxIrq false s)
  | lineFeed (running : s.haltOutput = false) (pending : s.pendingLineFeed = true) :
      FiringBranch s .txLf (sendLineFeed s)
  | replays (running : s.haltOutput = false) (noLf : s.pendingLineFeed = false) (replaying : s.eraseState ≠ .idle) :
      FiringBranch s .txErasen (replayByte s)
  | beginsReplay (running : s.haltOutput = false) (noLf : s.pendingLineFeed = false) (noReplay : s.eraseState = .idle)
      (backlog : 0 < s.eraseBacklog) : FiringBranch s .txErase0 (beginReplay s)
  | data (running : s.haltOutput = false) (noLf : s.pendingLineFeed = false) (noReplay : s.eraseState = .idle)
      (noBacklog : s.eraseBacklog = 0) (nonempty : s.txbuf.head ≠ s.txbuf.tail) : FiringBranch s .txData (sendData s)
  | idle (running : s.haltOutput = false) (noWork : workOutstanding s = false) :
      FiringBranch s .txIdle (setTxIrq false s)

namespace FiringBranch

/-- Every core takes a branch. -/
theorem total (s : CoreState) : ∃ row c, FiringBranch s row c := by
  cases running : s.haltOutput with
  | true => exact ⟨_, _, .halted running⟩
  | false =>
    cases noLf : s.pendingLineFeed with
    | true => exact ⟨_, _, .lineFeed running noLf⟩
    | false =>
      by_cases noReplay : s.eraseState = .idle
      case neg => exact ⟨_, _, .replays running noLf noReplay⟩
      obtain noBacklog | backlog := Nat.eq_zero_or_pos s.eraseBacklog
      case inr => exact ⟨_, _, .beginsReplay running noLf noReplay backlog⟩
      by_cases empty : s.txbuf.head = s.txbuf.tail
      case pos => exact ⟨_, _, .idle running (workOutstanding_eq_false_iff.mpr ⟨noLf, noReplay, noBacklog, empty⟩)⟩
      case neg => exact ⟨_, _, .data running noLf noReplay noBacklog empty⟩

variable {s c : CoreState} {row : Instr}

/-- The key of the core selects its branch (R94). -/
theorem selected (h : FiringBranch s row c) : decodeTxKey (txKey s) = row := by
  rw [txKey, decodeTxKey_txKeyOf]
  cases h with
  | halted halted => simp [halted]
  | lineFeed running pending => simp [running, pending]
  | replays running noLf replaying => simp [running, noLf, replaying]
  | beginsReplay running noLf noReplay backlog => simp [running, noLf, noReplay, backlog]
  | data running noLf noReplay noBacklog nonempty => simp [running, noLf, noReplay, noBacklog, nonempty]
  | idle running noWork =>
    obtain ⟨noLf, noReplay, noBacklog, empty⟩ := workOutstanding_eq_false_iff.mp noWork
    simp [running, noLf, noReplay, noBacklog, empty]

/-- The steps of R188 run the branch. -/
theorem fire_eq (h : FiringBranch s row c) : fire s = c := by
  cases h with
  | halted halted => exact if_pos halted
  | lineFeed running pending => simp [fire, running, pending, sendLineFeed]
  | replays running noLf replaying => rw [fire_pastLineFeed running noLf, steps3to6_of_replaying replaying]
  | beginsReplay running noLf noReplay backlog =>
    rw [fire_pastLineFeed running noLf, steps3to6, startReplay_of_idle backlog noReplay, if_neg (by simp)]
    rfl
  | data running noLf noReplay noBacklog nonempty =>
    rw [fire_pastLineFeed running noLf, steps3to6_of_noErase noReplay noBacklog, dataOrIdle_of_nonempty nonempty]
  | idle running noWork =>
    obtain ⟨noLf, noReplay, noBacklog, empty⟩ := workOutstanding_eq_false_iff.mp noWork
    rw [fire_pastLineFeed running noLf, steps3to6_of_noErase noReplay noBacklog, dataOrIdle_of_empty empty]

end FiringBranch

/-! ### A firing as an event (R180) -/

theorem exec_txrdy {s : State} (started : s.started = true) (enabled : s.txie = true) :
    exec .txrdy s = becomes (fire s.core) s :=
  whenFiring_enabled _ started enabled

/-- The row the key selects and the event `TXRDY` are one transition; `meaning` is the row's arm of the dispatch. -/
theorem FiringBranch.exec_eq {s : State} {row : Instr} {c : CoreState} (h : FiringBranch s.core row c)
    (started : s.started = true) (enabled : s.txie = true) (meaning : exec row s = whenTxRow row s (becomes c s)) :
    exec row s = becomes c s ∧ exec .txrdy s = becomes c s := by
  rw [meaning, whenTxRow_selected _ started enabled h.selected, exec_txrdy started enabled, h.fire_eq]
  exact ⟨rfl, rfl⟩

/-- Settles O36: the branch `TX.HALT`. -/
theorem haltedFiringOnlyDisables : Obligations.HaltedFiringOnlyDisables :=
  fun _ started enabled halted => (FiringBranch.halted halted).exec_eq started enabled rfl

/-- Settles O37: the branch `TX.LF`. -/
theorem pendingLineFeedIsSent : Obligations.PendingLineFeedIsSent :=
  fun _ started enabled running pending => (FiringBranch.lineFeed running pending).exec_eq started enabled rfl

/-- Settles O38: the branch `TX.ERASE0`. -/
theorem replayStartsWithBackspace : Obligations.ReplayStartsWithBackspace :=
  fun _ started enabled running noLf noReplay backlog =>
    (FiringBranch.beginsReplay running noLf noReplay backlog).exec_eq started enabled rfl

/-- Settles O41: the branch `TX.IDLE`. -/
theorem idleFiringOnlyDisables : Obligations.IdleFiringOnlyDisables :=
  fun _ started enabled running noWork => (FiringBranch.idle running noWork).exec_eq started enabled rfl

/-! ### The byte of a replay (R184) -/

/-- The byte sent in a sub-state of the replay and the next sub-state: R184's table. -/
def replayStep (p : Params) : EraseState → Byte × EraseState
  | .idle => (p.bs, .idle)
  | .sendBackspace1 => (p.bs, .sendSpace)
  | .sendSpace => (p.sp, .sendBackspace2)
  | .sendBackspace2 => (p.bs, .idle)

theorem replayByte_eq {s : CoreState} (replaying : s.eraseState ≠ .idle) :
    replayByte s = setEraseState (replayStep s.par s.eraseState).2 (send (replayStep s.par s.eraseState).1 s) := by
  unfold replayByte
  cases sub : s.eraseState with
  | idle => exact absurd sub replaying
  | sendBackspace1 => rfl
  | sendSpace => rfl
  | sendBackspace2 => rfl

/-- What is left of a replay is its next byte and what is left after it. -/
theorem replayRest_eq_cons (p : Params) {e : EraseState} (replaying : e ≠ .idle) :
    replayRest p e = (replayStep p e).1 :: replayRest p (replayStep p e).2 := by
  cases e with
  | idle => exact absurd rfl replaying
  | sendBackspace1 => rfl
  | sendSpace => rfl
  | sendBackspace2 => rfl

/-- Everything the branch `TX.ERASEn` does (R184). -/
theorem exec_replays {s : State} (started : s.started = true) (enabled : s.txie = true) (running : s.haltOutput = false)
    (noLf : s.pendingLineFeed = false) (replaying : s.eraseState ≠ .idle) :
    let c := setEraseState (replayStep s.par s.eraseState).2 (send (replayStep s.par s.eraseState).1 s.core)
    exec .txErasen s = becomes c s ∧ exec .txrdy s = becomes c s :=
  replayByte_eq replaying ▸ (FiringBranch.replays running noLf replaying).exec_eq started enabled rfl

/-- Settles O39: the branch `TX.ERASEn` in each sub-state of R184's table. -/
theorem replayContinues : Obligations.ReplayContinues := by
  intro s started enabled running noLf
  refine ⟨fun sub => ?_, fun sub => ?_, fun sub => ?_⟩
  all_goals
    have next := exec_replays started enabled running noLf (by simp [sub])
    rw [sub] at next
    exact next

/-! ### Output mapping (R186) -/

/-- A dequeued byte leaves as `CR` and a pending `NL`. -/
def splitsNewline (p : Params) (w : Byte) : Bool :=
  decide (¬(p.cfg.ocrnl = true ∧ w = p.cr) ∧ p.cfg.onlcr = true ∧ w = p.nl)

/-- The byte the firing that dequeues `w` sends. -/
def mappedByte (p : Params) (w : Byte) : Byte :=
  if p.cfg.ocrnl ∧ w = p.cr then p.nl else if p.cfg.onlcr ∧ w = p.nl then p.cr else w

theorem mappedOutput_eq (p : Params) (w : Byte) :
    mappedOutput p w = mappedByte p w :: if splitsNewline p w then [p.nl] else [] := by
  unfold mappedOutput mappedByte splitsNewline
  split_ifs <;> simp_all

theorem sendMapped_eq (w : Byte) {s : CoreState} (noLf : s.pendingLineFeed = false) :
    sendMapped w s = setPendingLineFeed (splitsNewline s.par w) (send (mappedByte s.par w) s) := by
  unfold sendMapped mappedByte splitsNewline
  split_ifs <;> simp_all [setPendingLineFeed, send]

/-- The three cases of R186. -/
theorem mappedByte_cases (p : Params) (w : Byte) :
    (p.cfg.ocrnl = true ∧ w = p.cr ∧ mappedByte p w = p.nl ∧ splitsNewline p w = false) ∨
    (¬(p.cfg.ocrnl = true ∧ w = p.cr) ∧ p.cfg.onlcr = true ∧ w = p.nl ∧ mappedByte p w = p.cr ∧
      splitsNewline p w = true) ∨
    (¬(p.cfg.ocrnl = true ∧ w = p.cr) ∧ ¬(p.cfg.onlcr = true ∧ w = p.nl) ∧ mappedByte p w = w ∧
      splitsNewline p w = false) := by
  unfold mappedByte splitsNewline
  split_ifs <;> simp_all

/-- Everything the branch `TX.DATA` does (R185, R186). -/
theorem sendData_eq {s : CoreState} (noLf : s.pendingLineFeed = false) :
    sendData s =
      setPendingLineFeed (splitsNewline s.par (txSlot s s.txbuf.head)) (send (mappedByte s.par (txSlot s s.txbuf.head))
        (setTxbuf { s.txbuf with head := cursorNext s.par.nTx s.txbuf.head } s)) :=
  sendMapped_eq _ noLf

/-! ### The bytes a firing sends (R189) -/

theorem FiringBranch.out_eq {s c : CoreState} {row : Instr} (h : FiringBranch s row c) :
    if row = .txHalt ∨ row = .txIdle then c.out = s.out else ∃ b, c.out = s.out ++ [b] := by
  cases h with
  | halted => exact rfl
  | idle => exact rfl
  | lineFeed => exact ⟨_, rfl⟩
  | beginsReplay => exact ⟨_, rfl⟩
  | replays _ _ replaying => exact ⟨_, congrArg CoreState.out (replayByte_eq replaying)⟩
  | data _ noLf => exact ⟨_, congrArg CoreState.out (sendData_eq noLf)⟩

/-- Settles O42: by the branch the firing takes. -/
theorem firingSendsAtMostOneByte : Obligations.FiringSendsAtMostOneByte := by
  intro s t fired
  obtain ⟨-, -, next⟩ := whenFiring_next fired
  obtain ⟨row, c, branch⟩ := FiringBranch.total s.core
  rw [becomes_next.mp next, branch.fire_eq, branch.selected]
  exact branch.out_eq

end Machine

end Sys2Proof

/-!
PROOF. The work the transmit engine owes (R191): taking the oldest byte of `TXBUF` (R111), then, branch by branch, that a
firing sends the first owed byte and leaves the others owed; from these, the mapping of a data byte (R185, R186) and the order
and number of the firings that send everything (R68, R191).
-/

namespace Sys2Proof

namespace Machine

/-! ### Taking the oldest resident byte (R111) -/

/-- The slot after the get cursor is the first of the ring that a `get` leaves. -/
theorem slotByte_cursorNext_add (id : BufId) (n : Nat) (r : Ring) (i : Nat) :
    slotByte id n { r with head := cursorNext n r.head } (cursorNext n r.head + i) =
      slotByte id n r (r.head + (i + 1)) := by
  have slot : (cursorNext n r.head + i) % n = (r.head + (i + 1)) % n := by
    rw [cursorNext, Nat.mod_add_mod, Nat.add_assoc, Nat.add_comm 1 i]
  rw [slotByte, slotByte, slot]

theorem resident_of_nonempty {id : BufId} {n : Nat} {r : Ring} (hr : ringOk n r) (nonempty : r.head ≠ r.tail) :
    resident id n r = slotByte id n r r.head :: resident id n { r with head := cursorNext n r.head } := by
  obtain ⟨hhead, htail, -⟩ := hr
  simp only [resident, ← ringCount_head_next hhead htail nonempty, List.range_succ_eq_map, List.map_cons, List.map_map,
    slotByte_cursorNext_add]
  rfl

theorem ringOk_headNext {n : Nat} {r : Ring} (hr : ringOk n r) : ringOk n { r with head := cursorNext n r.head } := by
  obtain ⟨hhead, htail, storage⟩ := hr
  exact ⟨cursorNext_lt (by omega), htail, storage⟩

theorem txResident_of_nonempty {s : CoreState} (txOk : ringOk s.par.nTx s.txbuf)
    (nonempty : s.txbuf.head ≠ s.txbuf.tail) :
    txResident s =
      txSlot s s.txbuf.head :: txResident (setTxbuf { s.txbuf with head := cursorNext s.par.nTx s.txbuf.head } s) :=
  resident_of_nonempty txOk nonempty

@[simp] theorem txResident_send (b : Byte) (s : CoreState) : txResident (send b s) = txResident s := rfl

@[simp] theorem txResident_setPendingLineFeed (f : Bool) (s : CoreState) :
    txResident (setPendingLineFeed f s) = txResident s := rfl

@[simp] theorem txResident_setEraseState (e : EraseState) (s : CoreState) :
    txResident (setEraseState e s) = txResident s := rfl

@[simp] theorem txResident_setEraseBacklog (k : Nat) (s : CoreState) :
    txResident (setEraseBacklog k s) = txResident s := rfl

/-! ### A data byte (R185, R186) -/

/-- Settles O40: the branch `TX.DATA`, whose byte is the oldest resident one. -/
theorem dataByteIsMappedAndSent : Obligations.DataByteIsMappedAndSent := by
  intro s w rest started shape enabled running noLf noReplay noBacklog residents
  obtain ⟨-, rings⟩ := shape
  obtain ⟨-, txOk⟩ := rings started
  have nonempty : s.txbuf.head ≠ s.txbuf.tail := by
    intro empty
    rw [txResident, (resident_eq_nil_iff txOk).mpr empty] at residents
    cases residents
  obtain ⟨oldest, left⟩ := List.cons.inj ((txResident_of_nonempty txOk nonempty).symm.trans residents)
  have branch := FiringBranch.data running noLf noReplay noBacklog nonempty
  obtain ⟨byRow, byEvent⟩ := branch.exec_eq started enabled rfl
  have sent := sendData_eq noLf
  rw [oldest] at sent
  rw [sent] at byRow byEvent
  exact ⟨_, mappedByte s.par w, byRow, byEvent, ⟨rfl, rfl, rfl, rfl, rfl, rfl, rfl, rfl, rfl, rfl, rfl⟩, fun _ _ => rfl,
    left, rfl, mappedByte_cases s.par w, rfl, rfl, rfl⟩

/-! ### The owed bytes (R191) -/

theorem mappedOutput_ne_nil (p : Params) (w : Byte) : mappedOutput p w ≠ [] := by
  rw [mappedOutput_eq]
  exact List.cons_ne_nil _ _

theorem length_flatMap_mappedOutput (p : Params) (ws : List Byte) :
    (ws.flatMap (mappedOutput p)).length = ws.length + ws.countP (splitsNewline p) := by
  induction ws with
  | nil => rfl
  | cons w ws ih =>
    rw [List.flatMap_cons, List.length_append, ih, mappedOutput_eq, List.length_cons, List.countP_cons, List.length_cons]
    cases splitsNewline p w <;> simp <;> omega

theorem length_owedBytes (s : CoreState) :
    (owedBytes s).length =
      s.pendingLineFeed.toNat + (replayRest s.par s.eraseState).length + 3 * s.eraseBacklog +
        (txResident s).length + (txResident s).countP (splitsNewline s.par) := by
  have lf : (if s.pendingLineFeed = true then [s.par.nl] else []).length = s.pendingLineFeed.toNat := by
    cases s.pendingLineFeed <;> rfl
  simp only [owedBytes, List.length_append, lf, length_flatMap_mappedOutput]
  simp [Nat.add_assoc, Nat.mul_comm]

/-- Something is owed exactly where work is outstanding. -/
theorem owedBytes_eq_nil_iff {s : CoreState} (txOk : ringOk s.par.nTx s.txbuf) :
    owedBytes s = [] ↔ workOutstanding s = false := by
  have noReplay : replayRest s.par s.eraseState = [] ↔ s.eraseState = .idle := by
    cases s.eraseState <;> simp [replayRest]
  have noData : txResident s = [] ↔ s.txbuf.head = s.txbuf.tail := resident_eq_nil_iff txOk
  have noMapped : (txResident s).flatMap (mappedOutput s.par) = [] ↔ txResident s = [] := by
    cases txResident s <;> simp [mappedOutput_ne_nil]
  simp [owedBytes, workOutstanding_eq_false_iff, noReplay, noData, noMapped]

/-! ### A firing sends the first owed byte -/

/-- The core may fire: output not halted, the interrupt enabled, `TXBUF` as R24 and R25 have it. -/
structure ReadyToFire (s : CoreState) : Prop where
  running : s.haltOutput = false
  enabled : s.txie = true
  txOk : ringOk s.par.nTx s.txbuf

/-- Between `s` and `c` the first of the bytes owed at `s` is sent, and nothing else that the engine goes by has changed. -/
structure SendsFirstOwed (s c : CoreState) : Prop where
  sends : ∃ b, c.out = s.out ++ [b] ∧ owedBytes s = b :: owedBytes c
  par : c.par = s.par
  haltOutput : c.haltOutput = s.haltOutput
  txie : c.txie = s.txie
  txOk : ringOk s.par.nTx s.txbuf → ringOk s.par.nTx c.txbuf

theorem SendsFirstOwed.readyToFire {s c : CoreState} (h : SendsFirstOwed s c) (ready : ReadyToFire s) :
    ReadyToFire c where
  running := h.haltOutput.trans ready.running
  enabled := h.txie.trans ready.enabled
  txOk := h.par ▸ h.txOk ready.txOk

theorem sendsFirstOwed_sendLineFeed {s : CoreState} (pending : s.pendingLineFeed = true) :
    SendsFirstOwed s (sendLineFeed s) where
  sends := ⟨s.par.nl, rfl, by simp [owedBytes, pending, sendLineFeed]⟩
  par := rfl
  haltOutput := rfl
  txie := rfl
  txOk := id

theorem sendsFirstOwed_replayByte {s : CoreState} (noLf : s.pendingLineFeed = false)
    (replaying : s.eraseState ≠ .idle) : SendsFirstOwed s (replayByte s) := by
  rw [replayByte_eq replaying]
  exact {
    sends := ⟨_, rfl, by simp [owedBytes, noLf, replayRest_eq_cons s.par replaying]⟩
    par := rfl
    haltOutput := rfl
    txie := rfl
    txOk := id }

/-- A unit of backlog is owed as the three bytes of a replay, of which the first is sent at once. -/
theorem sendsFirstOwed_beginReplay {s : CoreState} (noLf : s.pendingLineFeed = false) (noReplay : s.eraseState = .idle)
    (backlog : 0 < s.eraseBacklog) : SendsFirstOwed s (beginReplay s) where
  sends := by
    obtain ⟨k, units⟩ := Nat.exists_eq_succ_of_ne_zero backlog.ne'
    exact ⟨s.par.bs, rfl, by
      simp [owedBytes, noLf, noReplay, units, beginReplay, replayRest, List.replicate_succ]⟩
  par := rfl
  haltOutput := rfl
  txie := rfl
  txOk := id

/-- Where the byte is split the `NL` left pending is what its mapped form has left. -/
theorem sendsFirstOwed_sendData {s : CoreState} (txOk : ringOk s.par.nTx s.txbuf) (noLf : s.pendingLineFeed = false)
    (noReplay : s.eraseState = .idle) (noBacklog : s.eraseBacklog = 0) (nonempty : s.txbuf.head ≠ s.txbuf.tail) :
    SendsFirstOwed s (sendData s) := by
  rw [sendData_eq noLf]
  exact {
    sends := by
      refine ⟨_, rfl, ?_⟩
      cases splits : splitsNewline s.par (txSlot s s.txbuf.head) <;>
        simp [owedBytes, noLf, noReplay, noBacklog, replayRest, txResident_of_nonempty txOk nonempty, mappedOutput_eq,
          splits]
    par := rfl
    haltOutput := rfl
    txie := rfl
    txOk := ringOk_headNext }

/-- With output not halted and work outstanding, a firing sends the first owed byte whatever its branch. -/
theorem FiringBranch.sendsFirstOwed {s c : CoreState} {row : Instr} (h : FiringBranch s row c) (ready : ReadyToFire s)
    (work : workOutstanding s = true) : SendsFirstOwed s c := by
  cases h with
  | halted halted => simp [ready.running] at halted
  | lineFeed _ pending => exact sendsFirstOwed_sendLineFeed pending
  | replays _ noLf replaying => exact sendsFirstOwed_replayByte noLf replaying
  | beginsReplay _ noLf noReplay backlog => exact sendsFirstOwed_beginReplay noLf noReplay backlog
  | data _ noLf noReplay noBacklog nonempty => exact sendsFirstOwed_sendData ready.txOk noLf noReplay noBacklog nonempty
  | idle _ noWork => simp [noWork] at work

/-! ### Firing after firing (R191) -/

theorem firings_succ {s t : State} (k : Nat) (h : exec .txrdy s = .next t) : firings (k + 1) s = firings k t := by
  simp only [firings, List.replicate_succ, runEvents, h]

/-- As many firings as bytes are owed send them in order; `k` more then start with nothing owed. -/
theorem firings_send_owed {s : State} {bs : List Byte} (started : s.started = true) (ready : ReadyToFire s.core)
    (owed : owedBytes s.core = bs) :
    ∃ u : State, (∀ k, firings (bs.length + k) s = firings k u) ∧ u.out = s.out ++ bs ∧ u.started = true ∧
      ReadyToFire u.core ∧ workOutstanding u.core = false := by
  induction bs generalizing s with
  | nil => exact ⟨s, by simp, by simp, started, ready, (owedBytes_eq_nil_iff ready.txOk).mp owed⟩
  | cons b bs ih =>
    have work : workOutstanding s.core = true := by
      rw [← Bool.not_eq_false, ← owedBytes_eq_nil_iff ready.txOk, owed]
      exact List.cons_ne_nil b bs
    obtain ⟨row, c, branch⟩ := FiringBranch.total s.core
    have fired : exec .txrdy s = .next (withCore c s) := branch.fire_eq ▸ exec_txrdy started ready.enabled
    have first := branch.sendsFirstOwed ready work
    obtain ⟨b', out, owes⟩ := first.sends
    obtain ⟨rfl, left⟩ := List.cons.inj (owed.symm.trans owes)
    obtain ⟨u, later, sent, rest⟩ := ih (s := withCore c s) started (first.readyToFire ready) left.symm
    refine ⟨u, fun k => ?_, ?_, rest⟩
    · rw [List.length_cons, Nat.add_right_comm, firings_succ _ fired]
      exact later k
    · rw [sent, withCore_out, out, List.append_assoc, List.singleton_append]

/-- Settles O44: the firings that send the owed bytes, then one in the branch `TX.IDLE`. -/
theorem owedWorkIsSentInOrder : Obligations.OwedWorkIsSentInOrder := by
  intro s started shape running enabled
  obtain ⟨-, rings⟩ := shape
  obtain ⟨-, txOk⟩ := rings started
  obtain ⟨u, firingsTo, sent, startedThen, ready, noWork⟩ := firings_send_owed started ⟨running, enabled, txOk⟩ rfl
  obtain ⟨-, idles⟩ := (FiringBranch.idle ready.running noWork).exec_eq startedThen ready.enabled rfl
  refine ⟨length_owedBytes s.core, u, withCore (setTxIrq false u.core) u, firingsTo 0, sent, ready.enabled, ?_,
    sent, rfl, noWork⟩
  rw [firingsTo 1, firings_succ 0 idles]
  rfl

end Machine

end Sys2Proof

/-!
PROOF. Nothing is stranded (R192): the invariant said of the core alone; whatever queues transmit work also sets `TXIE`, and
a firing clears it only while halted or with no work left; from these, that every event keeps it.
-/

namespace Sys2Proof

/-! ### The events a word can stand for (R81) -/

theorem noOperand_ok {data : Byte} {i j : Instr} (h : noOperand data i = .ok j) : j = i := by
  unfold noOperand at h
  split at h
  · exact (Except.ok.inj h).symm
  · cases h

/-- The decoder answers one of the five events. -/
theorem decodeEvent_ok {w : EventWord} {i : Instr} (h : decodeEvent w = .ok i) :
    i = .reset ∨ (∃ v, i = .rx v) ∨ i = .txrdy ∨ i = .rd ∨ ∃ v, i = .wr v := by
  unfold decodeEvent at h
  split at h
  case h_1 => exact .inl (noOperand_ok h)
  case h_2 => exact .inr (.inl ⟨_, (Except.ok.inj h).symm⟩)
  case h_3 => exact .inr (.inr (.inl (noOperand_ok h)))
  case h_4 => exact .inr (.inr (.inr (.inl (noOperand_ok h))))
  case h_5 => exact .inr (.inr (.inr (.inr ⟨_, (Except.ok.inj h).symm⟩)))
  case h_6 => cases h

namespace Machine

/-! ### Everything a step can do (R5, R65) -/

theorem step_next {s t : State} (h : step s = .next t) :
    (s.trace = [] ∧ t = s) ∨
    ∃ w ws i, s.trace = w :: ws ∧ decodeEvent w = .ok i ∧ exec i (setTrace ws s) = .next t := by
  cases pending : s.trace with
  | nil =>
    rw [step, fetch_nil pending] at h
    exact .inl ⟨rfl, (Host.Outcome.next.inj h).symm⟩
  | cons w ws =>
    rw [step_cons pending] at h
    cases decoded : decodeEvent w with
    | ok i => exact .inr ⟨w, ws, i, rfl, decoded, runWord_decoded _ decoded ▸ h⟩
    | error why =>
      rw [runWord_rejected _ decoded] at h
      cases h

/-- A `RESET` that runs is a launch (R250). -/
theorem execReset_next {s t : State} (h : execReset s = .next t) : t = launch s := by
  unfold execReset at h
  split_ifs at h
  exact (Host.Outcome.next.inj h).symm

/-! ### The invariant of the core -/

/-- What R192 says of a core: with output not halted and work outstanding, the transmit interrupt is enabled. -/
def Armed (s : CoreState) : Prop := s.haltOutput = false → workOutstanding s = true → s.txie = true

theorem nothingStranded_iff (s : State) : nothingStranded s ↔ (s.started = true → Armed s.core) := Iff.rfl

theorem armed_of_txie {s : CoreState} (h : s.txie = true) : Armed s := fun _ _ => h

theorem armed_of_halted {s : CoreState} (h : s.haltOutput = true) : Armed s := by simp [Armed, h]

theorem armed_of_noWork {s : CoreState} (h : workOutstanding s = false) : Armed s := by simp [Armed, h]

/-! ### What R192 does not speak of -/

section Frames

variable {s : CoreState}

theorem Armed.setRxbuf (r : Ring) (h : Armed s) : Armed (setRxbuf r s) := h

theorem Armed.setLineReadyCounter (n : BitVec 8) (h : Armed s) : Armed (setLineReadyCounter n s) := h

theorem Armed.logRd (r : Res) (h : Armed s) : Armed (logRd r s) := h

theorem Armed.rxPut (v : Byte) (h : Armed s) : Armed (rxPut v s) := h

theorem Armed.countLine (b : Byte) (h : Armed s) : Armed (countLine b s) := by
  unfold Machine.countLine
  split
  · exact h.setLineReadyCounter _
  · exact h

theorem Armed.readByte (h : Armed s) : Armed (readByte s).2 := by
  unfold Machine.readByte uncountLine
  split
  · exact h
  split
  · split
    · exact (h.setRxbuf _).setLineReadyCounter _
    · exact h.setRxbuf _
  · exact h

end Frames

/-! ### What queues transmit work sets `TXIE` (R144, R162) -/

section Queues

variable {s t : CoreState} {isKill : Bool} {stop : Stop}

theorem armed_txEnqueue (w : Byte) (s : CoreState) : Armed (txEnqueue w s).2 := armed_of_txie rfl

theorem Armed.enqueueAll (ws : List Byte) (h : Armed s) : Armed (enqueueAll ws s) := by
  cases ws with
  | nil => exact h
  | cons w ws => exact armed_of_txie (by simp [enqueueAll_eq])

theorem Armed.echo (b : Byte) (h : Armed s) : Armed (echo b s) := echo_eq b s ▸ h.enqueueAll _

theorem Armed.echoTrigger (visual : Bool) (removed : Nat) (b : Byte) (h : Armed s) :
    Armed (echoTrigger visual removed b s) := by
  unfold Machine.echoTrigger
  split
  · exact h.echo b
  · exact h

theorem Armed.admitAction (b : Byte) (h : Armed s) : Armed (admitAction b s) := by
  unfold Machine.admitAction
  split
  · exact ((h.countLine b).rxPut b).echo b
  · exact refuseByte_eq s ▸ h.enqueueAll _

theorem Armed.backlogAdd {c : Byte} (h : Armed s) (added : backlogAdd c isKill s = .ok t) : Armed t := by
  obtain ⟨-, rfl⟩ | ⟨-, rfl⟩ := backlogAdd_ok added
  · exact armed_of_txie rfl
  · exact h

theorem Armed.retractOne {e : Bool} (h : Armed s) (done : retractOne stop isKill s = .ok (e, t)) : Armed t := by
  obtain ⟨-, nothing⟩ | ⟨c, r, -, -, -, ⟨-, stopped⟩ | ⟨-, erased⟩⟩ := retractOne_cases stop isKill s
  · cases nothing.symm.trans done
    exact h
  · cases stopped.symm.trans done
    exact (h.setRxbuf r).rxPut c
  · rw [erased] at done
    split at done
    · cases done
    · rename_i added
      cases done
      exact (h.setRxbuf r).backlogAdd added

theorem Armed.retractFuel {fuel k : Nat} (h : Armed s) (done : retractFuel fuel stop isKill s = .ok (k, t)) : Armed t := by
  induction fuel generalizing k s with
  | zero =>
    cases done
    exact h
  | succ fuel ih =>
    rw [retractFuel_succ] at done
    split at done
    · cases done
    · rename_i stopped
      cases done
      exact h.retractOne stopped
    · rename_i erased
      split at done
      · cases done
      · rename_i swept
        cases done
        exact ih (h.retractOne erased) swept

end Queues

/-! ### The events (R81) -/

section Events

variable {s t : CoreState} {b v : Byte}

theorem Armed.eraseAction (h : Armed s) (done : eraseAction b s = .ok t) : Armed t := by
  unfold Machine.eraseAction at done
  split at done
  · cases done
  · rename_i retracted
    cases done
    exact (h.retractOne retracted).echoTrigger _ _ _

theorem Armed.killAction (h : Armed s) (done : killAction b s = .ok t) : Armed t := by
  unfold Machine.killAction at done
  split at done
  · cases done
  · rename_i swept
    cases done
    exact (h.retractFuel swept).echoTrigger _ _ _

theorem Armed.weraseAction (h : Armed s) (done : weraseAction b s = .ok t) : Armed t := by
  unfold Machine.weraseAction at done
  split at done
  · cases done
  rename_i spacesSwept
  split at done
  · cases done
  rename_i wordSwept
  cases done
  exact ((h.retractFuel spacesSwept).retractFuel wordSwept).echoTrigger _ _ _

theorem Armed.steps5and6 (h : Armed s) (done : steps5and6 b s = .ok t) : Armed t := by
  unfold Machine.steps5and6 at done
  split_ifs at done
  · exact h.eraseAction done
  · exact h.killAction done
  · exact h.weraseAction done
  all_goals
    cases done
    exact h.admitAction b

theorem Armed.steps2to6 (h : Armed s) (done : steps2to6 v s = .ok t) : Armed t := by
  unfold Machine.steps2to6 at done
  split_ifs at done
  · cases done
    exact h
  · exact h.steps5and6 done

/-- Flow control either halts output or enables the interrupt; steps 2 to 6 enable it with whatever they queue. -/
theorem Armed.receive (h : Armed s) (done : receive v s = .ok t) : Armed t := by
  unfold Machine.receive at done
  split_ifs at done
  · cases done
    exact armed_of_halted rfl
  · cases done
    exact armed_of_txie rfl
  all_goals exact h.steps2to6 done

/-- An enabled firing clears `TXIE` only while output is halted or with no work left (R181, R187). -/
theorem armed_fire (enabled : s.txie = true) : Armed (fire s) := by
  obtain ⟨row, c, branch⟩ := FiringBranch.total s
  rw [branch.fire_eq]
  cases branch with
  | halted halted => exact armed_of_halted halted
  | lineFeed => exact armed_of_txie enabled
  | replays _ _ replaying => exact armed_of_txie (replayByte_eq replaying ▸ enabled)
  | beginsReplay => exact armed_of_txie enabled
  | data _ noLf => exact armed_of_txie (sendData_eq noLf ▸ enabled)
  | idle _ noWork => exact armed_of_noWork noWork

end Events

/-- Every event keeps R192. -/
theorem exec_event_keeps_nothingStranded {s t : State} {i : Instr}
    (event : i = .reset ∨ (∃ v, i = .rx v) ∨ i = .txrdy ∨ i = .rd ∨ ∃ v, i = .wr v) (h : nothingStranded s)
    (ran : exec i s = .next t) : nothingStranded t := by
  rw [nothingStranded_iff] at h ⊢
  obtain rfl | ⟨v, rfl⟩ | rfl | rfl | ⟨w, rfl⟩ := event
  case inl =>
    rw [execReset_next ran]
    exact fun _ => armed_of_noWork rfl
  case inr.inl =>
    obtain ⟨started, ran⟩ := whenStarted_next ran
    obtain ⟨c, received, rfl⟩ := outcome_next.mp ran
    exact fun _ => (h started).receive received
  case inr.inr.inl =>
    obtain ⟨-, enabled, ran⟩ := whenFiring_next ran
    rw [becomes_next.mp ran]
    exact fun _ => armed_fire enabled
  case inr.inr.inr.inl =>
    obtain ⟨started, ran⟩ := whenStarted_next ran
    rw [becomes_next.mp ran]
    exact fun _ => (h started).readByte.logRd _
  case inr.inr.inr.inr =>
    obtain ⟨-, ran⟩ := whenStarted_next ran
    rw [becomes_next.mp ran]
    exact fun _ => armed_txEnqueue w s.core

/-- Settles O59: a step is nothing or one event, which keeps R192. -/
theorem stepStrandsNothing : Obligations.StepStrandsNothing := by
  intro s t h stepped
  obtain ⟨-, rfl⟩ | ⟨w, ws, i, -, decoded, ran⟩ := step_next stepped
  · exact h
  · exact exec_event_keeps_nothingStranded (decodeEvent_ok decoded) (s := setTrace ws s) h ran

end Machine

end Sys2Proof

/-!
PROOF. The host's read port: what one read can do (R200, R201), said of the bytes resident in `RXBUF`; from it, that `RD` takes
the oldest byte behind the gate, and that in canonical mode none of an unterminated line (R206).
-/

namespace Sys2Proof

namespace Machine

/-! ### The read gate (R50, R200) -/

theorem rdReady_of_raw {s : CoreState} (raw : s.par.cfg.canonical ≠ true) : rdReady s = !ringIsEmpty s.rxbuf :=
  if_neg raw

theorem rdReady_of_canonical {s : CoreState} (canonical : s.par.cfg.canonical = true) :
    rdReady s = decide (s.lineReadyCounter ≠ 0) := by
  simp [rdReady, canonical, Nat.pos_iff_ne_zero, ← BitVec.toNat_inj]

/-! ### One read (R201) -/

theorem uncountLine_eq (v : Byte) (s : CoreState) :
    uncountLine v s =
      setLineReadyCounter
        (if s.par.cfg.canonical = true ∧ v = s.par.nl then s.lineReadyCounter - 1 else s.lineReadyCounter) s := by
  unfold uncountLine
  split <;> rfl

/-- The core after a read that takes the byte `v` out of `RXBUF`. -/
def takeByte (v : Byte) (s : CoreState) : CoreState :=
  uncountLine v (setRxbuf { s.rxbuf with head := cursorNext s.par.nRx s.rxbuf.head } s)

theorem takeByte_eq (v : Byte) (s : CoreState) :
    takeByte v s =
      setLineReadyCounter
        (if s.par.cfg.canonical = true ∧ v = s.par.nl then s.lineReadyCounter - 1 else s.lineReadyCounter)
        (setRxbuf { s.rxbuf with head := cursorNext s.par.nRx s.rxbuf.head } s) :=
  uncountLine_eq v _

theorem readByte_of_notReady {s : CoreState} (shut : rdReady s = false) : readByte s = (.empty, s) := by
  simp [readByte, shut]

theorem readByte_of_empty {s : CoreState} (empty : s.rxbuf.head = s.rxbuf.tail) : readByte s = (.empty, s) := by
  obtain ⟨-, nothing⟩ | ⟨nonempty, -⟩ := ringGet_cases .rx s.par.nRx s.rxbuf
  · simp [readByte, nothing]
  · exact absurd empty nonempty

theorem readByte_of_nonempty {s : CoreState} (ready : rdReady s = true) (nonempty : s.rxbuf.head ≠ s.rxbuf.tail) :
    readByte s = (.byte (rxSlot s s.rxbuf.head), takeByte (rxSlot s s.rxbuf.head) s) := by
  obtain ⟨empty, -⟩ | ⟨-, taken⟩ := ringGet_cases .rx s.par.nRx s.rxbuf
  · exact absurd empty nonempty
  · simp [readByte, ready, taken, takeByte, rxSlot]

/-- Everything a read can do: find the gate shut or no byte resident, or take the oldest resident byte. -/
theorem readByte_cases {s : CoreState} (rxOk : ringOk s.par.nRx s.rxbuf) :
    ((s.par.cfg.canonical = true ∧ s.lineReadyCounter = 0 ∨ rxResident s = []) ∧ readByte s = (.empty, s)) ∨
    ∃ v, (s.par.cfg.canonical = true → s.lineReadyCounter ≠ 0) ∧
      rxResident s = v :: rxResident (takeByte v s) ∧ readByte s = (.byte v, takeByte v s) := by
  by_cases empty : s.rxbuf.head = s.rxbuf.tail
  · exact .inl ⟨.inr ((resident_eq_nil_iff rxOk).mpr empty), readByte_of_empty empty⟩
  by_cases shut : s.par.cfg.canonical = true ∧ s.lineReadyCounter = 0
  · obtain ⟨canonical, noLine⟩ := shut
    exact .inl ⟨.inl ⟨canonical, noLine⟩, readByte_of_notReady (by simp [rdReady_of_canonical canonical, noLine])⟩
  · have lines : s.par.cfg.canonical = true → s.lineReadyCounter ≠ 0 := not_and.mp shut
    have ready : rdReady s = true := by
      by_cases canonical : s.par.cfg.canonical = true
      · simpa [rdReady_of_canonical canonical] using lines canonical
      · simpa [rdReady_of_raw canonical, ringIsEmpty] using empty
    refine .inr ⟨_, lines, ?_, readByte_of_nonempty ready empty⟩
    rw [takeByte_eq]
    exact resident_of_nonempty rxOk empty

/-! ### The event `RD` (R200, R201, R206) -/

theorem exec_rd {s : State} (started : s.started = true) :
    exec .rd s = becomes (logRd (readByte s.core).1 (readByte s.core).2) s :=
  whenStarted_started _ started

/-- Settles O46: the two ends of a read, told apart by the gate and the resident bytes. -/
theorem readReturnsOldestByte : Obligations.ReadReturnsOldestByte := by
  intro s started shape
  obtain ⟨-, rings⟩ := shape
  obtain ⟨rxOk, -⟩ := rings started
  rw [exec_rd started]
  refine ⟨fun v rest residents gate => ?taken, fun nothing => ?nothing⟩
  case taken =>
    obtain ⟨⟨canonical, noLine⟩ | none, -⟩ | ⟨w, -, oldest, read⟩ := readByte_cases rxOk
    · exact absurd noLine (gate canonical)
    · cases none.symm.trans residents
    · obtain ⟨rfl, rfl⟩ := List.cons.inj (oldest.symm.trans residents)
      rw [read, takeByte_eq]
      exact ⟨rfl, rfl⟩
  case nothing =>
    obtain ⟨-, read⟩ | ⟨w, lines, oldest, -⟩ := readByte_cases rxOk
    · rw [read]
      rfl
    · obtain ⟨canonical, noLine⟩ | none := nothing
      · exact absurd noLine (lines canonical)
      · cases none.symm.trans oldest

/-- Settles O48: the byte read was the oldest, and the open gate means that a resident `NL` is counted. -/
theorem canonicalReadStopsAtNewline : Obligations.CanonicalReadStopsAtNewline := by
  intro s t v shape countOk canonical ran logged
  obtain ⟨started, ran⟩ := whenStarted_next ran
  obtain ⟨-, rings⟩ := shape
  obtain ⟨rxOk, -⟩ := rings started
  obtain ⟨count, -⟩ := countOk started
  obtain rfl := becomes_next.mp ran
  obtain ⟨-, read⟩ | ⟨w, lines, oldest, read⟩ := readByte_cases rxOk
  · simp [read] at logged
  · have sameByte : w = v := by simpa [read, takeByte_eq] using logged
    have counted : 0 < (rxResident s.core).count s.par.nl := by
      rw [← count canonical]
      exact Nat.pos_of_ne_zero fun zero => lines canonical (BitVec.eq_of_toNat_eq zero)
    exact ⟨List.count_pos_iff.mp counted, by rw [oldest, sameByte]; rfl⟩

end Machine

end Sys2Proof

/-!
PROOF. The event `RESET`: when it runs and when it is refused as a configuration change (R256, R258), what a launch leaves in
every register (R250); from these, the reset values, the `RESET` of a running core, and that a second `RESET` changes nothing.
-/

namespace Sys2Proof

namespace Machine

/-! ### What a launch leaves (R250) -/

section Launched

variable (p : Params) (c : CoreState)

@[simp] theorem resetRegisters_par : (resetRegisters p c).par = p := rfl
@[simp] theorem resetRegisters_rxbuf : (resetRegisters p c).rxbuf = { c.rxbuf with head := 0, tail := 0 } := rfl
@[simp] theorem resetRegisters_txbuf : (resetRegisters p c).txbuf = { c.txbuf with head := 0, tail := 0 } := rfl
@[simp] theorem resetRegisters_lineReadyCounter : (resetRegisters p c).lineReadyCounter = 0 := rfl
@[simp] theorem resetRegisters_eraseBacklog : (resetRegisters p c).eraseBacklog = 0 := rfl
@[simp] theorem resetRegisters_eraseState : (resetRegisters p c).eraseState = .idle := rfl
@[simp] theorem resetRegisters_txie : (resetRegisters p c).txie = false := rfl
@[simp] theorem resetRegisters_haltOutput : (resetRegisters p c).haltOutput = false := rfl
@[simp] theorem resetRegisters_pendingLineFeed : (resetRegisters p c).pendingLineFeed = false := rfl
@[simp] theorem resetRegisters_out : (resetRegisters p c).out = [] := rfl
@[simp] theorem resetRegisters_rdlog : (resetRegisters p c).rdlog = [] := rfl

variable (s : State)

@[simp] theorem launch_core : (launch s).core = resetRegisters s.initParams s.core := rfl
@[simp] theorem launch_started : (launch s).started = true := rfl
@[simp] theorem launch_initParams : (launch s).initParams = s.initParams := rfl
@[simp] theorem launch_trace : (launch s).trace = s.trace := rfl
@[simp] theorem launch_launch : launch (launch s) = launch s := rfl

end Launched

theorem resident_of_empty {id : BufId} {n : Nat} {r : Ring} (empty : r.head = r.tail) : resident id n r = [] := by
  simp [resident, ringCount, empty]

@[simp] theorem rxResident_resetRegisters (p : Params) (c : CoreState) : rxResident (resetRegisters p c) = [] :=
  resident_of_empty rfl

@[simp] theorem txResident_resetRegisters (p : Params) (c : CoreState) : txResident (resetRegisters p c) = [] :=
  resident_of_empty rfl

/-! ### When a `RESET` runs (R256, R258) -/

theorem launchable_iff {p : Params} :
    launchable p = true ↔ configValid p = true ∧ p.txUnput = false ∧ p.ebW ≠ 0 := by
  simp [launchable, and_assoc, Nat.one_le_iff_ne_zero]

/-- With launchable parameters only the change of a running core's parameters is left to refuse. -/
theorem exec_reset_of_launchable {s : State} (h : launchable s.initParams = true) :
    exec .reset s =
      if s.started = true ∧ s.initParams ≠ s.par then .refused .configurationChange else .next (launch s) := by
  obtain ⟨valid, noUnput, width⟩ := launchable_iff.mp h
  simp [exec, execReset, valid, noUnput, width]

/-- A `RESET` runs exactly where its parameters are launchable and change none of a running core, and is then a launch. -/
theorem exec_reset_next_iff {s t : State} :
    exec .reset s = .next t ↔
      launchable s.initParams = true ∧ (s.started = true → s.initParams = s.par) ∧ launch s = t := by
  by_cases fit : launchable s.initParams = true
  · rw [exec_reset_of_launchable fit]
    split_ifs with changing
    · obtain ⟨started, changed⟩ := changing
      simp [started, changed]
    · have unchanged : s.started = true → s.initParams = s.par := not_and_not_right.mp changing
      exact ⟨fun ran => ⟨fit, unchanged, Host.Outcome.next.inj ran⟩, fun ⟨_, _, launched⟩ => congrArg _ launched⟩
  · have stopped : exec .reset s ≠ .next t := by
      intro ran
      simp only [exec, execReset] at ran
      split_ifs at ran with invalid unput width
      exact fit (launchable_iff.mpr ⟨by simpa using invalid, by simpa using unput, width⟩)
    simp [stopped, fit]

/-! ### The obligations -/

/-- Settles O11: the next state is the launch, read register by register. -/
theorem resetSetsEveryRegister : Obligations.ResetSetsEveryRegister := by
  intro s fit unchanged
  exact ⟨launch s, exec_reset_next_iff.mpr ⟨fit, unchanged, rfl⟩, by simp⟩

/-- Settles O13: a launch with the core's own parameters, and the refusal that is left with others. -/
theorem resetOfRunningCore : Obligations.ResetOfRunningCore := by
  refine ⟨fun s _ fit same => ?restart, fun s started fit changed => ?change⟩
  case restart =>
    exact ⟨launch s, exec_reset_next_iff.mpr ⟨same ▸ fit, fun _ => same, rfl⟩, by simp [same]⟩
  case change =>
    rw [exec_reset_of_launchable fit, if_pos ⟨started, changed⟩]

/-- Settles O14: a launch leaves the port, now runs with its parameters, and is left as it is by another launch. -/
theorem resetIsIdempotent : Obligations.ResetIsIdempotent := by
  intro s t ran
  obtain ⟨fit, -, rfl⟩ := exec_reset_next_iff.mp ran
  exact exec_reset_next_iff.mpr ⟨fit, fun _ => rfl, launch_launch s⟩

end Machine

end Sys2Proof

/-!
PROOF. Decode and encode over the three formats (R80 to R83, R94, R95) and the packed form of `cfg` (R90): an event word is
its kind and its data, a received byte selects the one well-formed row that carries it, a key selects one of the six rows, and
a packed flag is read back at its bit.
-/

namespace Sys2Proof

/-! ### The event word (R80, R81) -/

theorem eventWord_kind_data (w : EventWord) : eventWord (eventKind w) (eventData w) = w :=
  BitVec.eq_of_getLsbD_eq fun i hi => by
    simp only [eventWord, eventKind, eventData, BitVec.getLsbD_append, BitVec.getLsbD_extractLsb']
    split
    case isTrue data => simp [data]
    case isFalse kind =>
      rw [Nat.add_sub_cancel' (by omega)]
      simp [show i - 8 < 3 by omega]

/-- A word whose kind is `kind` is put together from `kind` and its data. -/
theorem eventWord_of_kind {w : EventWord} {kind : BitVec 3} (h : (eventKind w).toNat = kind.toNat) :
    eventWord kind (eventData w) = w := by
  rw [← BitVec.eq_of_toNat_eq h, eventWord_kind_data]

/-- An event without operand is read only from the word of its kind whose data is 0. -/
theorem encode_of_noOperand {w : EventWord} {kind : BitVec 3} {i j : Instr} (row : encode i = .event (eventWord kind 0))
    (ofKind : (eventKind w).toNat = kind.toNat) (h : noOperand (eventData w) i = .ok j) : encode j = .event w := by
  unfold noOperand at h
  split at h
  case isTrue zero =>
    obtain rfl := Except.ok.inj h
    rw [row, ← zero, eventWord_of_kind ofKind]
  case isFalse => cases h

theorem encode_of_decodeEvent {w : EventWord} {i : Instr} (h : decodeEvent w = .ok i) : encode i = .event w := by
  unfold decodeEvent at h
  split at h
  case h_1 kind => exact encode_of_noOperand (kind := 0) rfl kind h
  case h_2 kind =>
    obtain rfl := Except.ok.inj h
    rw [encode, eventWord_of_kind kind]
  case h_3 kind => exact encode_of_noOperand (kind := 2) rfl kind h
  case h_4 kind => exact encode_of_noOperand (kind := 3) rfl kind h
  case h_5 kind =>
    obtain rfl := Except.ok.inj h
    rw [encode, eventWord_of_kind kind]
  case h_6 => cases h

/-- An event is well-formed whatever its data (R82). -/
theorem wellFormed_of_event (p : Params) {i : Instr} {w : EventWord} (event : encode i = .event w) :
    wellFormed p i = true := by
  cases i with
  | reset | rx | txrdy | rd | wr => rfl
  | _ => cases event

/-! ### The received byte (R83, R95) -/

@[simp] theorem encode_decodeRxByte (p : Params) (v : Byte) : encode (decodeRxByte p v) = .rxByte v := by
  unfold decodeRxByte
  split_ifs <;> rfl

/-- The row selected is well-formed: its own test holds and those before it fail. -/
theorem wellFormed_decodeRxByte (p : Params) (v : Byte) : wellFormed p (decodeRxByte p v) = true := by
  rw [decodeRxByte_eq]
  split_ifs <;> simp_all [wellFormed, reachesStep5, isSpecial_cons_cons]

/-- Settles O4: the row selected is well-formed, and no other well-formed row carries the byte. -/
theorem everyByteSelectsOneRow : Obligations.EveryByteSelectsOneRow := by
  intro p v i
  constructor
  · rintro ⟨wf, row⟩
    exact (decodeRxByte_of_wellFormed row wf).symm
  · rintro rfl
    exact ⟨wellFormed_decodeRxByte p v, encode_decodeRxByte p v⟩

/-- Settles O5: the tests of R83 with the codes and flags of T1, byte by byte. -/
theorem defaultByteMap : Obligations.DefaultByteMap := by
  unfold Obligations.DefaultByteMap
  decide

/-! ### The transmit key (R94, R95) -/

/-- One row matches a key, the one the decode answers. -/
theorem txkMatches_eq (k : TxKey) : txkMatches k = [decodeTxKey k] := by
  revert k
  decide

theorem decodeTxKey_mem (k : TxKey) :
    decodeTxKey k ∈ [Instr.txHalt, .txLf, .txErase0, .txErasen, .txData, .txIdle] := by
  revert k
  decide

/-- A row of format TXK has no operand that could be ill-formed. -/
theorem wellFormed_decodeTxKey (p : Params) (k : TxKey) : wellFormed p (decodeTxKey k) = true := by
  have row := decodeTxKey_mem k
  simp only [List.mem_cons, List.not_mem_nil, or_false] at row
  obtain h | h | h | h | h | h := row <;> rw [h] <;> rfl

/-- Settles O6: the row the decode answers is the one that matches. -/
theorem transmitKeyRowsPartition : Obligations.TransmitKeyRowsPartition :=
  fun k => ⟨decodeTxKey k, txkMatches_eq k⟩

/-- Settles O7: the branch every core takes is the one its key selects. -/
theorem transmitBranchSelection : Obligations.TransmitBranchSelection := by
  intro s
  obtain ⟨row, c, branch⟩ := Machine.FiringBranch.total s.core
  rw [branch.selected]
  cases branch with
  | halted halted => simp [halted]
  | lineFeed running pending => simp [running, pending]
  | replays running noLf replaying => simp [running, noLf, replaying]
  | beginsReplay running noLf noReplay backlog => simp [running, noLf, noReplay, backlog]
  | data running noLf noReplay noBacklog nonempty =>
    simp [running, noLf, noReplay, noBacklog, Machine.ringIsEmpty, nonempty]
  | idle running noWork =>
    obtain ⟨noLf, noReplay, noBacklog, empty⟩ := Machine.workOutstanding_eq_false_iff.mp noWork
    simp [running, noLf, noReplay, noBacklog, Machine.ringIsEmpty, empty]

/-! ### The whole decoder -/

/-- Settles O1: format by format; a row of format RXB by the decode of its byte. -/
theorem decodeEncodeRoundTrip : Obligations.DecodeEncodeRoundTrip := by
  intro p i wf
  have byByte : ∀ v, encode i = .rxByte v → decode p (encode i) = .ok i := fun v row => by
    rw [row, decode, decodeRxByte_of_wellFormed row wf]
  cases i with
  | reset | txrdy | rd => rfl
  | rx v => exact decodeEvent_rxWord v
  | wr w => exact decodeEvent_wrWord w
  | txHalt | txLf | txErase0 | txErasen | txData | txIdle => rfl
  | rxXoff v | rxXon v | rxIgncr v | rxErase v | rxEraseBs v | rxKill v | rxWerase v | rxNl v | rxOrd v => exact byByte v rfl

/-- Settles O2: by the format of the word. -/
theorem decodedInstructionIsWellFormed : Obligations.DecodedInstructionIsWellFormed := by
  intro p c i decoded
  cases c with
  | event w =>
    have word := encode_of_decodeEvent decoded
    exact ⟨wellFormed_of_event p word, fun _ _ => word, by simp⟩
  | rxByte v =>
    obtain rfl := Except.ok.inj decoded
    exact ⟨wellFormed_decodeRxByte p v, by simp, fun _ _ => encode_decodeRxByte p v⟩
  | txKey k =>
    obtain rfl := Except.ok.inj decoded
    exact ⟨wellFormed_decodeTxKey p k, by simp, by simp⟩

/-- Settles O9: each word's fields, or the tests of its format, on the bits written out. -/
theorem spelledWordsDecode : Obligations.SpelledWordsDecode :=
  ⟨rfl, rfl, rfl, rfl, rfl, by decide, by decide, by decide, by decide⟩

/-! ### The packed form of `cfg` (R90) -/

theorem testBit_bitsToNat (bs : List Bool) (i : Nat) : (bitsToNat bs).testBit i = bs.getD i false := by
  induction bs generalizing i with
  | nil => simp [bitsToNat]
  | cons b bs ih =>
    cases i with
    | zero => cases b <;> simp [bitsToNat, Nat.testBit_zero, Nat.add_mod]
    | succ i =>
      have half : (b.toNat + 2 * bitsToNat bs) / 2 = bitsToNat bs := by
        cases b <;> simp
        omega
      simp only [bitsToNat, Nat.testBit_succ, half, ih, List.getD_cons_succ]

/-- R90's layout: the flags in bits 0 to 13, then the three codes. -/
theorem getLsbD_toWord (c : LineConfig) (i : Nat) :
    c.toWord.getLsbD i =
      if i < 14 then c.flags.getD i false
      else if i < 22 then c.eraseCode.getLsbD (i - 14)
      else if i < 30 then c.killCode.getLsbD (i - 22)
      else c.weraseCode.getLsbD (i - 30) := by
  unfold LineConfig.toWord
  change BitVec.getLsbD (w := 8 + 8 + 8 + 14) _ i = _
  simp only [BitVec.getLsbD_append, BitVec.getLsbD_ofNat, testBit_bitsToNat]
  by_cases flag : i < 14
  · simp [flag]
  · have erase : i - 14 < 8 ↔ i < 22 := by omega
    have kill : i - 22 < 8 ↔ i < 30 := by omega
    simp only [flag, erase, kill, if_false, Nat.sub_sub, Nat.reduceAdd]

theorem flags_ofWord (w : ConfigWord) : (LineConfig.ofWord w).flags = (List.range 14).map w.getLsbD := rfl

/-- A code is read back from the eight bits it is packed into. -/
theorem extractLsb'_toWord {c : LineConfig} {lo : Nat} {code : Byte}
    (bits : ∀ i < 8, c.toWord.getLsbD (lo + i) = code.getLsbD i) : c.toWord.extractLsb' lo 8 = code :=
  BitVec.eq_of_getLsbD_eq fun i hi => by simp [hi, bits i hi]

theorem ofWord_toWord (c : LineConfig) : LineConfig.ofWord c.toWord = c := by
  have erase : c.toWord.extractLsb' 14 8 = c.eraseCode :=
    extractLsb'_toWord fun i hi => by
      rw [getLsbD_toWord, if_neg (by omega), if_pos (by omega), Nat.add_sub_cancel_left]
  have kill : c.toWord.extractLsb' 22 8 = c.killCode :=
    extractLsb'_toWord fun i hi => by
      rw [getLsbD_toWord, if_neg (by omega), if_neg (by omega), if_pos (by omega), Nat.add_sub_cancel_left]
  have werase : c.toWord.extractLsb' 30 8 = c.weraseCode :=
    extractLsb'_toWord fun i hi => by
      rw [getLsbD_toWord, if_neg (by omega), if_neg (by omega), if_neg (by omega), Nat.add_sub_cancel_left]
  simp only [LineConfig.ofWord, erase, kill, werase, getLsbD_toWord]
  rfl

theorem toWord_ofWord (w : ConfigWord) : (LineConfig.ofWord w).toWord = w :=
  BitVec.eq_of_getLsbD_eq fun i hi => by
    rw [getLsbD_toWord, flags_ofWord]
    split_ifs with flag erase kill
    · simp [flag]
    all_goals
      simp only [LineConfig.ofWord, BitVec.getLsbD_extractLsb']
      rw [Nat.add_sub_cancel' (by omega), decide_eq_true (by omega), Bool.true_and]

/-- Settles O8: the layout of R90, read in both directions, and the two words by evaluation. -/
theorem configWordRoundTrip : Obligations.ConfigWordRoundTrip :=
  ⟨ofWord_toWord, toWord_ofWord, by decide, by decide⟩

end Sys2Proof

/-!
PROOF. The ring buffer as a bounded queue whose newest byte can be taken back (R67, R110 to R112), and what that makes of the
host port: `WR` appends or finds `TXBUF` full (R202), and a blocking `read` returns with the first poll that finds a byte
(R203).
-/

namespace Sys2Proof

namespace Machine

/-! ### `put` by the room there is (R114, R115) -/

theorem ringPut_of_noRoom {n : Nat} {r : Ring} (v : Byte) (hr : ringOk n r) (noRoom : ¬ ringCount n r < n - 1) :
    ringPut n r v = (.full, r) := by
  obtain ⟨-, full⟩ | ⟨-, stored⟩ := ringPut_cases n r v
  · exact full
  · exact absurd ((ringPut_ok_iff v hr).mp (by rw [stored])) noRoom

theorem ringFree_pos_iff {n : Nat} {r : Ring} : 0 < ringFree n r ↔ ringCount n r < n - 1 := by
  unfold ringFree
  omega

/-- What the slots read as after a `put` that stored its byte. -/
theorem slotByte_ringPut {n a : Nat} {r : Ring} {v : Byte} (id : BufId) (hr : ringOk n r)
    (ok : (ringPut n r v).1 = .ok) (ha : a < n) :
    slotByte id n (ringPut n r v).2 a = if a = r.tail then v else slotByte id n r a := by
  obtain ⟨-, htail, -⟩ := hr
  obtain ⟨-, stored⟩ := ringPut_of_ok ok
  rw [stored, slotByte_memWrite, Nat.mod_eq_of_lt ha, Nat.mod_eq_of_lt htail]

/-- Settles O51: each operation on the list of resident bytes, by the lemma that says what it does to the ring. -/
theorem ringRefinesBoundedQueue : Obligations.RingRefinesBoundedQueue := by
  intro id n r hr
  refine ⟨fun v => ?put, fun none => ?empty, fun w l oldest => ?get, fun w l newest => ?unput,
    fun v => ringOk_ringPut v hr, ringOk_ringGet id hr, ringOk_ringUnput id hr⟩
  case put =>
    rw [length_resident]
    split
    case isTrue room =>
      have ok := (ringPut_ok_iff v hr).mpr room
      exact ⟨ok, resident_ringPut id hr ok⟩
    case isFalse noRoom => exact ringPut_of_noRoom v hr noRoom
  case empty =>
    have empty := (resident_eq_nil_iff hr).mp none
    exact ⟨if_pos (ringIsEmpty_iff.mpr empty), if_pos (ringIsEmpty_iff.mpr empty)⟩
  case get =>
    obtain ⟨empty, -⟩ | ⟨nonempty, taken⟩ := ringGet_cases id n r
    · cases (resident_of_empty empty).symm.trans oldest
    · obtain ⟨byte, rest⟩ := List.cons.inj ((resident_of_nonempty hr nonempty).symm.trans oldest)
      rw [taken]
      exact ⟨congrArg Res.byte byte, rest⟩
  case unput =>
    obtain ⟨q, taken, -, -, older, -⟩ := ringUnput_of_newest hr newest
    rw [taken]
    exact ⟨rfl, List.append_cancel_right (older.trans newest)⟩

/-! ### The host port (R202, R203) -/

theorem exec_wr {s : State} {w : Byte} (started : s.started = true) :
    exec (.wr w) s = becomes (enqueue w s.core) (logWr (ringPut s.par.nTx s.txbuf w).1 s) :=
  whenStarted_started _ started

/-- Settles O47: an enqueue into `TXBUF` without room or with it, and its result. -/
theorem writeEnqueuesByte : Obligations.WriteEnqueuesByte := by
  intro s w started shape
  obtain ⟨-, rings⟩ := shape
  obtain ⟨-, txOk⟩ := rings started
  rw [exec_wr started, enqueue_eq]
  refine ⟨fun noRoom => ?full, fun room => ?stored⟩
  case full =>
    have full := ringPut_of_noRoom w txOk (ringFree_pos_iff.not.mp noRoom.not_gt)
    rw [full]
    rfl
  case stored =>
    have ok := (ringPut_ok_iff w txOk).mpr (ringFree_pos_iff.mp room)
    obtain ⟨-, stored⟩ := ringPut_of_ok ok
    refine ⟨(ringPut s.par.nTx s.txbuf w).2, ?_, resident_ringPut .tx txOk ok, ringPut_head _ _ _, ?_,
      fun a ha => slotByte_ringPut .tx txOk ok ha⟩
    · rw [ok]
      rfl
    · rw [stored]

/-- Settles O49: the first poll takes the oldest byte, so its result is the last one logged. -/
theorem blockingReadReturnsReadyByte : Obligations.BlockingReadReturnsReadyByte := by
  intro s waits v rest started shape gate residents
  obtain ⟨taken, -⟩ := readReturnsOldestByte s started shape
  obtain ⟨read, -⟩ := taken v rest residents gate
  refine ⟨_, read, ?_⟩
  unfold blockingRead
  rw [read]
  simp [lastResult]

end Machine

end Sys2Proof

/-!
PROOF. Which instruction has a transition, and which one it is (R82, R180, R257): every instruction but `RESET` stands under the
started guard, a row of format RXB or TXK that runs is the event that selects it (R83, R94), any other row is refused. Also the
step as the event its word stands for, and the event `RESET` (R250, R251, R256).
-/

namespace Sys2Proof

namespace Machine

/-! ### The step (R5, R65) -/

/-- Settles O10: a step takes the next word, if there is one, and runs what it decodes to. -/
theorem stepRunsDecodedEvent : Obligations.StepRunsDecodedEvent := by
  refine ⟨fun s w ws i pending decoded => ?_, fun s quiet => ?_⟩
  · rw [step_cons pending, runWord_decoded _ decoded]
    rfl
  · rw [step, fetch_nil quiet]

/-! ### The guards (R180, R257) -/

/-- Every instruction but `RESET` stands under the started guard. -/
theorem exec_guarded {i : Instr} (s : State) (notReset : i ≠ .reset) : ∃ r, exec i s = whenStarted s r := by
  cases i with
  | reset => exact absurd rfl notReset
  | _ => exact ⟨_, rfl⟩

/-- Settles O16: by the guard every other instruction stands under. -/
theorem noTransitionBeforeReset : Obligations.NoTransitionBeforeReset := by
  intro i s notStarted notReset
  obtain ⟨r, guarded⟩ := exec_guarded s notReset
  rw [guarded, whenStarted_notStarted r notStarted]

/-- A row of format TXK stands under the guard of a firing and that of its selection. -/
theorem exec_txRow {i : Instr} {k : TxKey} (s : State) (row : encode i = .txKey k) :
    ∃ c, exec i s = whenTxRow i s (becomes c s) := by
  cases i with
  | txHalt | txLf | txErase0 | txErasen | txData | txIdle => exact ⟨_, rfl⟩
  | _ => cases row

/-- Settles O35: `TXRDY` and its rows stand under one guard. -/
theorem firingNeedsInterruptEnabled : Obligations.FiringNeedsInterruptEnabled := by
  rintro s k i started disabled (rfl | row)
  · exact exec_txrdy_notEnabled started disabled
  · obtain ⟨c, guarded⟩ := exec_txRow s row
    rw [guarded]
    exact whenFiring_notEnabled _ started disabled

/-! ### A firing is the branch its key selects (R94, R188) -/

/-- The dispatch runs the branch a core takes under the guard of that branch. -/
theorem FiringBranch.exec_row {s : State} {row : Instr} {c : CoreState} (h : FiringBranch s.core row c) :
    exec row s = whenTxRow row s (becomes c s) := by
  cases h <;> rfl

theorem exec_txrdy_eq (s : State) : exec .txrdy s = exec (decodeTxKey (txKey s.core)) s := by
  obtain ⟨row, c, branch⟩ := FiringBranch.total s.core
  rw [branch.selected, branch.exec_row, whenTxRow, if_pos branch.selected, ← branch.fire_eq]
  rfl

/-- A row of format TXK is the firing where the key selects it, and is refused elsewhere. -/
theorem exec_txRow_cases {i : Instr} {k : TxKey} (s : State) (row : encode i = .txKey k) :
    (decodeTxKey (txKey s.core) = i ∧ exec i s = exec .txrdy s) ∨
      decodeTxKey (txKey s.core) ≠ i ∧ exec i s = whenFiring s (.refused .rowNotSelected) := by
  by_cases selected : decodeTxKey (txKey s.core) = i
  · exact .inl ⟨selected, by rw [exec_txrdy_eq, selected]⟩
  · obtain ⟨c, guarded⟩ := exec_txRow s row
    exact .inr ⟨selected, by rw [guarded, whenTxRow, if_neg selected]⟩

/-- Settles O34: the branch the core takes, and the guard of selection. -/
theorem firingRunsSelectedBranch : Obligations.FiringRunsSelectedBranch := by
  refine ⟨exec_txrdy_eq, fun s k i started enabled row other => ?_⟩
  obtain ⟨selected, -⟩ | ⟨-, refused⟩ := exec_txRow_cases s row
  · exact absurd selected.symm other
  · rw [refused, whenFiring_enabled _ started enabled]

/-! ### An `RX` event is the row its byte selects (R83, R130) -/

/-- What the row of format RXB does to the core it runs in (R131 to R143). -/
def rowAction (row : Instr) (s : CoreState) : Except Fault CoreState :=
  match row with
  | .rxXoff _ => .ok (pauseOutput s)
  | .rxXon _ => .ok (resumeOutput s)
  | .rxErase _ => eraseAction s.par.cfg.eraseCode s
  | .rxEraseBs _ => eraseAction s.par.bs s
  | .rxKill _ => killAction s.par.cfg.killCode s
  | .rxWerase _ => weraseAction s.par.cfg.weraseCode s
  | .rxNl _ => .ok (admitAction s.par.nl s)
  | .rxOrd v => .ok (admitAction (receivedByte s.par v) s)
  | _ => .ok s

theorem exec_rxRow {i : Instr} {v : Byte} (s : State) (row : encode i = .rxByte v) :
    exec i s = whenRxRow i v s (outcome (rowAction i s.core) s) := by
  cases i with
  | rxXoff | rxXon | rxIgncr | rxErase | rxEraseBs | rxKill | rxWerase | rxNl | rxOrd =>
    cases row
    rfl
  | _ => cases row

/-- Steps 1 to 6 of R130 do what the selected row does. -/
theorem receive_eq (v : Byte) (s : CoreState) : receive v s = rowAction (decodeRxByte s.par v) s := by
  by_cases xoff : s.par.cfg.flow = true ∧ v = s.par.xoff
  case pos =>
    obtain ⟨flow, same⟩ := xoff
    rw [receive_xoff flow same, decodeRxByte, if_pos ⟨flow, same⟩]
    rfl
  by_cases xon : s.par.cfg.flow = true ∧ v = s.par.xon
  case pos =>
    obtain ⟨flow, same⟩ := xon
    rw [receive_xon flow same (not_and.mp xoff flow), decodeRxByte, if_neg xoff, if_pos ⟨flow, same⟩]
    rfl
  rw [receive_pastFlow fun flow => ⟨not_and.mp xoff flow, not_and.mp xon flow⟩, decodeRxByte, if_neg xoff, if_neg xon,
    steps2to6]
  by_cases igncr : s.par.cfg.igncr = true ∧ stripByte s.par v = s.par.cr
  case pos =>
    rw [if_pos igncr, if_pos igncr]
    rfl
  rw [if_neg igncr, if_neg igncr]
  change steps5and6 (receivedByte s.par v) s = _
  by_cases canonical : s.par.cfg.canonical = true
  case neg =>
    simp only [steps5and6, canonical, Bool.false_eq_true, false_and, if_false]
    split
    case isTrue nl => rw [nl]; rfl
    case isFalse => rfl
  case pos =>
    simp only [steps5and6, canonical, true_and, if_true]
    -- Left are the four triggers in R83's order, then `NL`: both sides make the same tests.
    split_ifs <;> simp_all [rowAction]

theorem exec_rx_eq (s : State) (v : Byte) : exec (.rx v) s = exec (decodeRxByte s.par v) s := by
  rw [exec_rxRow s (encode_decodeRxByte s.par v), whenRxRow, if_pos rfl, ← receive_eq]
  rfl

/-- A row of format RXB is the `RX` event of its byte where the byte selects it, and is refused elsewhere. -/
theorem exec_rxRow_cases {i : Instr} {v : Byte} (s : State) (row : encode i = .rxByte v) :
    (decodeRxByte s.par v = i ∧ exec i s = exec (.rx v) s) ∨
      decodeRxByte s.par v ≠ i ∧ exec i s = whenStarted s (.refused .rowNotSelected) := by
  by_cases selected : decodeRxByte s.par v = i
  · exact .inl ⟨selected, by rw [exec_rx_eq, selected]⟩
  · exact .inr ⟨selected, by rw [exec_rxRow s row, whenRxRow, if_neg selected]⟩

/-- Settles O21: step by step the event does what its row does, and the guard of selection refuses the others. -/
theorem receiveEventRunsSelectedRow : Obligations.ReceiveEventRunsSelectedRow := by
  refine ⟨exec_rx_eq, fun s v i started row other => ?_⟩
  obtain ⟨selected, -⟩ | ⟨-, refused⟩ := exec_rxRow_cases s row
  · exact absurd selected.symm other
  · rw [refused, whenStarted_started _ started]

/-! ### `RESET` (R250, R251, R256) -/

/-- A capacity is a power of two from 2 to 256 (R6, R7). -/
theorem isCapacity_iff {n : Nat} : isCapacity n = true ↔ (∃ k, n = 2 ^ k) ∧ 2 ≤ n ∧ n ≤ 256 := by
  constructor
  · intro capacity
    have bounds := isCapacity_bounds capacity
    simp only [isCapacity, List.any_eq_true, beq_iff_eq] at capacity
    obtain ⟨k, -, power⟩ := capacity
    exact ⟨⟨k + 1, power⟩, bounds⟩
  · rintro ⟨⟨k, rfl⟩, low, high⟩
    have atLeast : 1 ≤ k := (Nat.pow_le_pow_iff_right (by decide)).mp (show 2 ^ 1 ≤ 2 ^ k from low)
    have atMost : k ≤ 8 := (Nat.pow_le_pow_iff_right (by decide)).mp (show 2 ^ k ≤ 2 ^ 8 from high)
    simp only [isCapacity, List.any_eq_true, List.mem_range, beq_iff_eq]
    exact ⟨k - 1, by omega, by rw [Nat.sub_add_cancel atLeast]⟩

/-- Settles O12: the tests of `ConfigValid`, of which the capacities' are R7's, and the first refusal of `RESET`. -/
theorem resetRefusesMalformedConfiguration : Obligations.ResetRefusesMalformedConfiguration := by
  refine ⟨fun p => ?_, fun s invalid => ?_⟩
  · simp only [configValid, Bool.and_eq_true, bne_iff_ne, ne_eq, isCapacity_iff, and_assoc]
  · simp [exec, execReset, invalid]

/-- With both cursors at 0 a buffer of at least two slots is not full. -/
theorem ringIsFull_reset {n : Nat} (m : List Host.Cell) (h : 2 ≤ n) : ringIsFull n ⟨0, 0, m⟩ = false := by
  simp [ringIsFull, cursorNext, Nat.mod_eq_of_lt (show 1 < n from h)]

/-- Settles O15: every property is one of the registers a launch leaves. -/
theorem resetLeavesCoreQuiescent : Obligations.ResetLeavesCoreQuiescent := by
  intro s t ran
  obtain ⟨fit, -, rfl⟩ := exec_reset_next_iff.mp ran
  obtain ⟨⟨nRx, -⟩, ⟨nTx, -⟩, -⟩ := launchable_bounds fit
  have notReady : rdReady (launch s).core = false := by simp [rdReady, ringIsEmpty]
  exact ⟨rfl, rfl, ringIsFull_reset _ nRx, ringIsFull_reset _ nTx, notReady, ringIsFull_reset _ nTx, rfl, rfl, rfl,
    exec_txrdy_notEnabled rfl rfl⟩

/-! ### The width of an echo (R145, R162) -/

/-- Settles O33: `Echo` and the accounting make the same distinction. -/
theorem echoWidthIsColumnsOwed : Obligations.EchoWidthIsColumnsOwed := by
  intro p b echoOn notNl
  have bytes : echoBytes p b = if p.cfg.echoctl ∧ isCtl b then [p.caret, b ^^^ ctlXor] else [b] := by
    simp [echoBytes, notNl, echoOn]
  rw [bytes]
  refine ⟨?_, fun echoctl ctl => if_pos ⟨echoctl, ctl⟩⟩
  unfold columns
  split <;> rfl

end Machine

end Sys2Proof

/-!
PROOF. Everything an event of a started core can do to it, as a relation between the core before and after: a received byte
pauses or resumes output, or takes characters back, or is admitted, and makes at most two enqueues; a firing takes its branch; a
read takes a byte. Every instruction that runs is such an event or a launch; from this, what each engine leaves alone (R234).
-/

namespace Sys2Proof

namespace Machine

/-! ### Taking characters back, one `RetractOne` after another (R160, R163) -/

/-- One `RetractOne` that does not fault takes `s` to `t`. -/
def RetractStep (isKill : Bool) (s t : CoreState) : Prop := ∃ stop e, retractOne stop isKill s = .ok (e, t)

/-- Any number of them. -/
abbrev Retracts (isKill : Bool) : CoreState → CoreState → Prop := Relation.ReflTransGen (RetractStep isKill)

theorem retracts_of_retractOne {stop : Stop} {isKill e : Bool} {s t : CoreState}
    (done : retractOne stop isKill s = .ok (e, t)) : Retracts isKill s t :=
  .single ⟨stop, e, done⟩

theorem retracts_of_retractFuel {fuel k : Nat} {stop : Stop} {isKill : Bool} {s t : CoreState}
    (done : retractFuel fuel stop isKill s = .ok (k, t)) : Retracts isKill s t := by
  induction fuel generalizing k s with
  | zero =>
    cases done
    exact .refl
  | succ fuel ih =>
    rw [retractFuel_succ] at done
    split at done
    · cases done
    · rename_i stopped
      cases done
      exact retracts_of_retractOne stopped
    · rename_i erased
      split at done
      · cases done
      · rename_i swept
        cases done
        exact .head ⟨stop, true, erased⟩ (ih swept)

/-! ### The enqueues of a received byte (R143 to R145) -/

theorem length_echoBytes_le (p : Params) (b : Byte) : (echoBytes p b).length ≤ 2 := by
  unfold echoBytes
  split_ifs <;> simp

theorem echoTrigger_enqueues (visual : Bool) (removed : Nat) (b : Byte) (s : CoreState) :
    ∃ ws : List Byte, ws.length ≤ 2 ∧ echoTrigger visual removed b s = enqueueAll ws s := by
  unfold echoTrigger
  split
  · exact ⟨_, length_echoBytes_le s.par b, echo_eq b s⟩
  · exact ⟨[], by simp, rfl⟩

@[simp] theorem countLine_par (b : Byte) (s : CoreState) : (countLine b s).par = s.par := by
  unfold countLine
  split <;> rfl

/-- Everything admission does: store the byte, count a line and echo; or ring the bell. -/
theorem admitAction_eq (b : Byte) (s : CoreState) :
    admitAction b s =
      if isAdmitted b s then enqueueAll (echoBytes s.par b) (rxPut b (countLine b s))
      else enqueueAll (if s.par.cfg.bell = true then [s.par.bel] else []) s := by
  rw [admitAction, echo_eq, refuseByte_eq, rxPut, setRxbuf_par, countLine_par]

/-! ### A received byte -/

/-- The rows a received byte can select (R83), with the flag that flow control and the erasing rows stand under. -/
inductive RxRow (p : Params) (v : Byte) : Instr → Prop
  | xoff (flow : p.cfg.flow = true) : RxRow p v (.rxXoff v)
  | xon : RxRow p v (.rxXon v)
  | igncr : RxRow p v (.rxIgncr v)
  | erase (canonical : p.cfg.canonical = true) : RxRow p v (.rxErase v)
  | eraseBs (canonical : p.cfg.canonical = true) : RxRow p v (.rxEraseBs v)
  | kill (canonical : p.cfg.canonical = true) : RxRow p v (.rxKill v)
  | werase (canonical : p.cfg.canonical = true) : RxRow p v (.rxWerase v)
  | nl : RxRow p v (.rxNl v)
  | ord : RxRow p v (.rxOrd v)

theorem rxRow_decodeRxByte (p : Params) (v : Byte) : RxRow p v (decodeRxByte p v) := by
  unfold decodeRxByte
  split_ifs with xoff xon igncr erase eraseBs kill werase nl
  · exact .xoff xoff.1
  · exact .xon
  · exact .igncr
  · exact .erase erase.1
  · exact .eraseBs eraseBs.1
  · exact .kill kill.1
  · exact .werase werase.1
  · exact .nl
  · exact .ord

/-- What a received byte `v` can do to the core `s` (R130 to R143). -/
inductive Received (v : Byte) (s : CoreState) : CoreState → Prop
  | pauses (flow : s.par.cfg.flow = true) : Received v s (pauseOutput s)
  | resumes (selected : decodeRxByte s.par v = .rxXon v) : Received v s (resumeOutput s)
  | queues (ws : List Byte) (few : ws.length ≤ 2) : Received v s (enqueueAll ws s)
  | retracts {isKill : Bool} {u : CoreState} (ws : List Byte) (few : ws.length ≤ 2)
      (canonical : s.par.cfg.canonical = true) (taken : Retracts isKill s u) : Received v s (enqueueAll ws u)
  | admits (b : Byte) (ws : List Byte) (few : ws.length ≤ 2) (admitted : isAdmitted b s = true) :
      Received v s (enqueueAll ws (rxPut b (countLine b s)))

section Actions

variable {v b : Byte} {s t : CoreState}

/-- Everything an erase that does not fault does: one `RetractOne`, then at most the two bytes of its trigger's echo. -/
theorem eraseAction_ok (done : eraseAction b s = .ok t) :
    ∃ e u, ∃ ws : List Byte, ws.length ≤ 2 ∧ retractOne .none false s = .ok (e, u) ∧ t = enqueueAll ws u := by
  unfold eraseAction at done
  split at done
  · cases done
  · rename_i e u retracted
    obtain rfl := Except.ok.inj done
    obtain ⟨ws, few, trigger⟩ := echoTrigger_enqueues s.par.cfg.echoe e.toNat b u
    exact ⟨e, u, ws, few, retracted, trigger⟩

/-- Everything a kill that does not fault does. -/
theorem killAction_ok (done : killAction b s = .ok t) :
    ∃ n u, ∃ ws : List Byte, ws.length ≤ 2 ∧ retractUntil .none true s = .ok (n, u) ∧ t = enqueueAll ws u := by
  unfold killAction at done
  split at done
  · cases done
  · rename_i n u swept
    obtain rfl := Except.ok.inj done
    obtain ⟨ws, few, trigger⟩ := echoTrigger_enqueues s.par.cfg.echok n b u
    exact ⟨n, u, ws, few, swept, trigger⟩

/-- Everything a word-erase that does not fault does. -/
theorem weraseAction_ok (done : weraseAction b s = .ok t) :
    ∃ n m mid u, ∃ ws : List Byte, ws.length ≤ 2 ∧ retractUntil .atNonSpace false s = .ok (n, mid) ∧
      retractUntil .atSpace false mid = .ok (m, u) ∧ t = enqueueAll ws u := by
  unfold weraseAction at done
  split at done
  · cases done
  rename_i n mid spaces
  split at done
  · cases done
  rename_i m u word
  obtain rfl := Except.ok.inj done
  obtain ⟨ws, few, trigger⟩ := echoTrigger_enqueues s.par.cfg.echoe (n + m) b u
  exact ⟨n, m, mid, u, ws, few, spaces, word, trigger⟩

theorem received_admitAction (v b : Byte) (s : CoreState) : Received v s (admitAction b s) := by
  rw [admitAction_eq]
  split
  case isTrue admitted => exact .admits b _ (length_echoBytes_le _ _) admitted
  case isFalse => exact .queues _ (by split <;> simp)

/-- Everything a received byte that does not fault can do. -/
theorem received_of_receive (done : receive v s = .ok t) : Received v s t := by
  rw [receive_eq] at done
  have row := rxRow_decodeRxByte s.par v
  generalize selected : decodeRxByte s.par v = i at row done
  cases row with
  | xoff flow =>
    obtain rfl := Except.ok.inj done
    exact .pauses flow
  | xon =>
    obtain rfl := Except.ok.inj done
    exact .resumes selected
  | igncr =>
    obtain rfl := Except.ok.inj done
    exact .queues [] (by simp)
  | erase canonical | eraseBs canonical =>
    obtain ⟨e, u, ws, few, taken, rfl⟩ := eraseAction_ok done
    exact .retracts ws few canonical (retracts_of_retractOne taken)
  | kill canonical =>
    obtain ⟨n, u, ws, few, swept, rfl⟩ := killAction_ok done
    exact .retracts ws few canonical (retracts_of_retractFuel swept)
  | werase canonical =>
    obtain ⟨n, m, mid, u, ws, few, spaces, word, rfl⟩ := weraseAction_ok done
    exact .retracts ws few canonical ((retracts_of_retractFuel spaces).trans (retracts_of_retractFuel word))
  | nl | ord =>
    obtain rfl := Except.ok.inj done
    exact received_admitAction v _ s

end Actions

end Machine

end Sys2Proof

/-!
PROOF. The frame of the receive engine (R234): whatever it queues, admits or takes back, a buffer changes only by the operations
of a ring buffer and neither get cursor moves. Every instruction that runs is a launch or an event of the core; from these, what
each engine leaves alone, the fault (R224), and the silence of a halted core (R228).
-/

namespace Sys2Proof

namespace Machine

/-! ### A ring buffer under its operations (R110 to R112) -/

/-- One operation on a ring buffer, whatever its result: `put`, or a `get` or `unput` that finds a byte. -/
inductive RingOp (n : Nat) (r : Ring) : Ring → Prop
  | put (v : Byte) : RingOp n r (ringPut n r v).2
  | get (nonempty : r.head ≠ r.tail) : RingOp n r { r with head := cursorNext n r.head }
  | unput (nonempty : r.head ≠ r.tail) : RingOp n r { r with tail := cursorPrev n r.tail }

/-- Any number of them. -/
abbrev RingOps (n : Nat) : Ring → Ring → Prop := Relation.ReflTransGen (RingOp n)

theorem ringOps_ringPutAll (n : Nat) (r : Ring) (vs : List Byte) : RingOps n r (ringPutAll n r vs) := by
  induction vs generalizing r with
  | nil => exact .refl
  | cons v vs ih => exact .head (.put v) (ih _)

/-! ### What the receive engine queues, admits and takes back leaves alone -/

/-- What queueing, admitting and taking back leave of the core: the two buffers change by ring operations, neither get cursor
moves, `EraseBacklog` stays in its width, and the registers named do not change. -/
structure QueueFrame (s t : CoreState) : Prop where
  par : t.par = s.par
  rxHead : t.rxbuf.head = s.rxbuf.head
  txHead : t.txbuf.head = s.txbuf.head
  eraseState : t.eraseState = s.eraseState
  pendingLineFeed : t.pendingLineFeed = s.pendingLineFeed
  haltOutput : t.haltOutput = s.haltOutput
  out : t.out = s.out
  rdlog : t.rdlog = s.rdlog
  rxOps : RingOps s.par.nRx s.rxbuf t.rxbuf
  txOps : RingOps s.par.nTx s.txbuf t.txbuf
  inWidth : s.eraseBacklog < 2 ^ s.par.ebW → t.eraseBacklog < 2 ^ s.par.ebW

namespace QueueFrame

theorem refl (s : CoreState) : QueueFrame s s := ⟨rfl, rfl, rfl, rfl, rfl, rfl, rfl, rfl, .refl, .refl, id⟩

theorem trans {s t u : CoreState} (hst : QueueFrame s t) (htu : QueueFrame t u) : QueueFrame s u where
  par := htu.par.trans hst.par
  rxHead := htu.rxHead.trans hst.rxHead
  txHead := htu.txHead.trans hst.txHead
  eraseState := htu.eraseState.trans hst.eraseState
  pendingLineFeed := htu.pendingLineFeed.trans hst.pendingLineFeed
  haltOutput := htu.haltOutput.trans hst.haltOutput
  out := htu.out.trans hst.out
  rdlog := htu.rdlog.trans hst.rdlog
  rxOps := hst.rxOps.trans (hst.par ▸ htu.rxOps)
  txOps := hst.txOps.trans (hst.par ▸ htu.txOps)
  inWidth := fun h => hst.par ▸ htu.inWidth (hst.par.symm ▸ hst.inWidth h)

end QueueFrame

section Queues

variable {isKill : Bool} {s t : CoreState}

theorem queueFrame_enqueueAll (ws : List Byte) (s : CoreState) : QueueFrame s (enqueueAll ws s) := by
  rw [enqueueAll_eq]
  exact ⟨rfl, rfl, ringPutAll_head _ _ _, rfl, rfl, rfl, rfl, rfl, .refl, ringOps_ringPutAll _ _ _, id⟩

theorem countLine_eq (b : Byte) (s : CoreState) :
    countLine b s =
      setLineReadyCounter
        (if s.par.cfg.canonical = true ∧ b = s.par.nl then s.lineReadyCounter + 1 else s.lineReadyCounter) s := by
  unfold countLine
  split <;> rfl

theorem queueFrame_admits (b : Byte) (s : CoreState) : QueueFrame s (rxPut b (countLine b s)) := by
  rw [countLine_eq]
  exact ⟨rfl, ringPut_head _ _ _, rfl, rfl, rfl, rfl, rfl, rfl, .single (.put b), .refl, id⟩

/-- Increments that do not fault leave `EraseBacklog` in its width (R27). -/
theorem backlogIncs_inWidth {k : Nat} (done : backlogIncs k s = .ok t) (h : s.eraseBacklog < 2 ^ s.par.ebW) :
    s.eraseBacklog + k < 2 ^ s.par.ebW := by
  induction k generalizing s with
  | zero => exact h
  | succ k ih =>
    obtain ⟨-, fault⟩ | ⟨below, counted⟩ := backlogInc_cases s
    · simp [backlogIncs, fault] at done
    · simp only [backlogIncs, counted] at done
      have later := ih done below
      simp only [setEraseBacklog_eraseBacklog, setEraseBacklog_par] at later
      omega

theorem queueFrame_backlogAdd {c : Byte} (added : backlogAdd c isKill s = .ok t) : QueueFrame s t := by
  unfold backlogAdd at added
  split at added
  · split at added
    · cases added
    · rename_i u counted
      obtain rfl := Except.ok.inj added
      have width := backlogIncs_inWidth counted
      rw [backlogIncs_ok counted]
      exact ⟨rfl, rfl, rfl, rfl, rfl, rfl, rfl, rfl, .refl, .refl, width⟩
  · obtain rfl := Except.ok.inj added
    exact .refl _

theorem RetractStep.queueFrame (h : RetractStep isKill s t) : QueueFrame s t := by
  obtain ⟨stop, e, done⟩ := h
  obtain ⟨-, nothing⟩ | ⟨c, r, nonempty, -, rfl, rest⟩ := retractOne_cases stop isKill s
  · cases nothing.symm.trans done
    exact .refl s
  have uncovered : QueueFrame s (setRxbuf { s.rxbuf with tail := cursorPrev s.par.nRx s.rxbuf.tail } s) :=
    ⟨rfl, rfl, rfl, rfl, rfl, rfl, rfl, rfl, .single (.unput nonempty), .refl, id⟩
  obtain ⟨-, stopped⟩ | ⟨-, erased⟩ := rest
  · cases stopped.symm.trans done
    exact uncovered.trans ⟨rfl, ringPut_head _ _ _, rfl, rfl, rfl, rfl, rfl, rfl, .single (.put c), .refl, id⟩
  · rw [erased] at done
    split at done
    · cases done
    · rename_i added
      cases done
      exact uncovered.trans (queueFrame_backlogAdd added)

theorem Retracts.queueFrame (h : Retracts isKill s t) : QueueFrame s t := by
  induction h with
  | refl => exact .refl s
  | tail _ last ih => exact ih.trans last.queueFrame

/-- A received byte is flow control, or leaves alone what queueing, admitting and taking back do. -/
theorem Received.cases_flow {v : Byte} (h : Received v s t) :
    (s.par.cfg.flow = true ∧ t = pauseOutput s) ∨ (decodeRxByte s.par v = .rxXon v ∧ t = resumeOutput s) ∨
      QueueFrame s t := by
  cases h with
  | pauses flow => exact .inl ⟨flow, rfl⟩
  | resumes selected => exact .inr (.inl ⟨selected, rfl⟩)
  | queues ws => exact .inr (.inr (queueFrame_enqueueAll ws s))
  | retracts ws _ _ taken => exact .inr (.inr (taken.queueFrame.trans (queueFrame_enqueueAll ws _)))
  | admits b ws => exact .inr (.inr ((queueFrame_admits b s).trans (queueFrame_enqueueAll ws _)))

end Queues

/-! ### What an instruction that runs does (R5) -/

/-- What the instruction `i`, not `RESET`, can do to the core. -/
inductive CoreEvent (i : Instr) (s : CoreState) : CoreState → Prop
  | receives {v : Byte} {c : CoreState} (selected : i = .rx v ∨ decodeRxByte s.par v = i) (received : Received v s c) :
      CoreEvent i s c
  | fires {row : Instr} {c : CoreState} (enabled : s.txie = true) (branch : FiringBranch s row c) : CoreEvent i s c
  | reads : CoreEvent i s (logRd (readByte s).1 (readByte s).2)
  | writes (w : Byte) : CoreEvent i s (enqueue w s)

section Instructions

variable {i : Instr} {s t : State} {v : Byte}

theorem exec_rx_next (ran : exec (.rx v) s = .next t) :
    s.started = true ∧ ∃ c, Received v s.core c ∧ t = withCore c s := by
  obtain ⟨started, ran⟩ := whenStarted_next ran
  obtain ⟨c, done, moved⟩ := outcome_next.mp ran
  exact ⟨started, c, received_of_receive done, moved⟩

theorem exec_txrdy_next (ran : exec .txrdy s = .next t) :
    s.started = true ∧ s.txie = true ∧ ∃ row c, FiringBranch s.core row c ∧ t = withCore c s := by
  obtain ⟨started, enabled, ran⟩ := whenFiring_next ran
  obtain ⟨row, c, branch⟩ := FiringBranch.total s.core
  exact ⟨started, enabled, row, c, branch, branch.fire_eq ▸ becomes_next.mp ran⟩

/-- A row of format RXB that runs is the event of its byte, which selects it. -/
theorem exec_rxRow_next (row : encode i = .rxByte v) (ran : exec i s = .next t) :
    decodeRxByte s.par v = i ∧ exec (.rx v) s = .next t := by
  obtain ⟨selected, same⟩ | ⟨-, refused⟩ := exec_rxRow_cases s row
  · exact ⟨selected, same ▸ ran⟩
  · obtain ⟨-, stopped⟩ := whenStarted_next (refused.symm.trans ran)
    cases stopped

/-- A row of format TXK that runs is the firing that selects it. -/
theorem exec_txRow_next {k : TxKey} (row : encode i = .txKey k) (ran : exec i s = .next t) :
    exec .txrdy s = .next t := by
  obtain ⟨-, same⟩ | ⟨-, refused⟩ := exec_txRow_cases s row
  · exact same ▸ ran
  · obtain ⟨-, -, stopped⟩ := whenFiring_next (refused.symm.trans ran)
    cases stopped

/-- The instruction `i` runs from `s` to `t` as an event of a started core; the port and the trace stay. -/
structure RunsEvent (i : Instr) (s t : State) : Prop where
  started : s.started = true
  event : CoreEvent i s.core t.core
  startedThen : t.started = true
  initParams : t.initParams = s.initParams
  trace : t.trace = s.trace

theorem runsEvent_of_rx (selected : i = .rx v ∨ decodeRxByte s.par v = i) (ran : exec (.rx v) s = .next t) :
    RunsEvent i s t := by
  obtain ⟨started, c, received, rfl⟩ := exec_rx_next ran
  exact ⟨started, .receives selected received, started, rfl, rfl⟩

theorem runsEvent_of_txrdy (ran : exec .txrdy s = .next t) : RunsEvent i s t := by
  obtain ⟨started, enabled, row, c, branch, rfl⟩ := exec_txrdy_next ran
  exact ⟨started, .fires enabled branch, started, rfl, rfl⟩

/-- Every instruction that runs is `RESET` or an event of a started core. -/
theorem exec_next (ran : exec i s = .next t) : i = .reset ∨ RunsEvent i s t := by
  cases i with
  | reset => exact .inl rfl
  | rx v => exact .inr (runsEvent_of_rx (.inl rfl) ran)
  | txrdy => exact .inr (runsEvent_of_txrdy ran)
  | rd =>
    obtain ⟨started, ran⟩ := whenStarted_next ran
    obtain rfl := becomes_next.mp ran
    exact .inr ⟨started, .reads, started, rfl, rfl⟩
  | wr w =>
    obtain ⟨started, ran⟩ := whenStarted_next ran
    obtain rfl := becomes_next.mp ran
    exact .inr ⟨started, .writes w, started, rfl, rfl⟩
  | rxXoff v | rxXon v | rxIgncr v | rxErase v | rxEraseBs v | rxKill v | rxWerase v | rxNl v | rxOrd v =>
    obtain ⟨selected, delivered⟩ := exec_rxRow_next rfl ran
    exact .inr (runsEvent_of_rx (.inr selected) delivered)
  | txHalt | txLf | txErase0 | txErasen | txData | txIdle =>
    exact .inr (runsEvent_of_txrdy (exec_txRow_next rfl ran))

end Instructions

/-! ### What no `RX` event writes (R130, R234) -/

theorem rxKeeps_of_received {v : Byte} {s : State} {c : CoreState} (h : Received v s.core c) :
    rxKeeps s (withCore c s) := by
  obtain ⟨-, rfl⟩ | ⟨-, rfl⟩ | frame := h.cases_flow
  · simp [rxKeeps, pauseOutput]
  · simp [rxKeeps, resumeOutput]
  · exact ⟨frame.par, frame.rxHead, frame.txHead, frame.eraseState, frame.pendingLineFeed, frame.out, frame.rdlog, rfl,
      rfl, rfl, rfl⟩

/-- Settles O32: a row that runs is the event, and the event is a received byte. -/
theorem receiveEventOwnership : Obligations.ReceiveEventOwnership := by
  intro i s t v event ran
  have delivered : exec (.rx v) s = .next t := by
    obtain rfl | row := event
    · exact ran
    · obtain ⟨-, same⟩ := exec_rxRow_next row ran
      exact same
  obtain ⟨-, c, received, rfl⟩ := exec_rx_next delivered
  exact rxKeeps_of_received received

/-! ### What no firing writes (R188, R234) -/

/-- What a firing leaves of the core: `TXBUF` is as it was or has lost its oldest byte, `EraseBacklog` does not grow, no
replay waits to begin, and the registers named do not change. -/
structure FiringFrame (s t : CoreState) : Prop where
  par : t.par = s.par
  rxbuf : t.rxbuf = s.rxbuf
  txbuf : t.txbuf = s.txbuf ∨ s.txbuf.head ≠ s.txbuf.tail ∧
    t.txbuf = { s.txbuf with head := cursorNext s.par.nTx s.txbuf.head }
  lineReadyCounter : t.lineReadyCounter = s.lineReadyCounter
  eraseBacklog : t.eraseBacklog ≤ s.eraseBacklog
  eraseState : s.eraseState ≠ .sendBackspace1 → t.eraseState ≠ .sendBackspace1
  haltOutput : t.haltOutput = s.haltOutput
  rdlog : t.rdlog = s.rdlog

theorem replayStep_ne_sendBackspace1 (p : Params) (e : EraseState) : (replayStep p e).2 ≠ .sendBackspace1 := by
  cases e <;> simp [replayStep]

theorem FiringBranch.frame {s c : CoreState} {row : Instr} (h : FiringBranch s row c) : FiringFrame s c := by
  cases h with
  | halted | lineFeed | idle => exact ⟨rfl, rfl, .inl rfl, rfl, le_rfl, id, rfl, rfl⟩
  | replays _ _ replaying =>
    rw [replayByte_eq replaying]
    exact ⟨rfl, rfl, .inl rfl, rfl, le_rfl, fun _ => replayStep_ne_sendBackspace1 _ _, rfl, rfl⟩
  | beginsReplay => exact ⟨rfl, rfl, .inl rfl, rfl, Nat.sub_le _ _, fun _ => by simp [beginReplay], rfl, rfl⟩
  | data _ noLf _ _ nonempty =>
    rw [sendData_eq noLf]
    exact ⟨rfl, rfl, .inr ⟨nonempty, rfl⟩, rfl, le_rfl, id, rfl, rfl⟩

/-- Settles O43: a branch that runs is the firing, and at most the get cursor of `TXBUF` moves. -/
theorem firingOwnership : Obligations.FiringOwnership := by
  intro i s t k event ran
  have fired : exec .txrdy s = .next t := by
    obtain rfl | row := event
    · exact ran
    · exact exec_txRow_next row ran
  obtain ⟨-, -, row, c, branch, rfl⟩ := exec_txrdy_next fired
  have frame := branch.frame
  have buffer : c.txbuf.tail = s.txbuf.tail ∧ c.txbuf.storage = s.txbuf.storage := by
    obtain same | ⟨-, taken⟩ := frame.txbuf
    · exact ⟨by rw [same], by rw [same]⟩
    · exact ⟨by rw [taken], by rw [taken]⟩
  obtain ⟨tail, storage⟩ := buffer
  exact ⟨frame.par, frame.rxbuf, tail, storage, frame.lineReadyCounter, frame.haltOutput, frame.rdlog, rfl, rfl, rfl, rfl⟩

/-! ### The parameters of a started core (R30, R73, R270) -/

/-- What a read leaves of the core: at most the oldest byte of `RXBUF` is gone, and a line with it. -/
theorem readByte_eq (s : CoreState) :
    (readByte s).2 = s ∨ s.rxbuf.head ≠ s.rxbuf.tail ∧ (readByte s).2 = takeByte (rxSlot s s.rxbuf.head) s := by
  by_cases empty : s.rxbuf.head = s.rxbuf.tail
  · exact .inl (by rw [readByte_of_empty empty])
  cases ready : rdReady s with
  | false => exact .inl (by rw [readByte_of_notReady ready])
  | true => exact .inr ⟨empty, by rw [readByte_of_nonempty ready empty]⟩

/-- Both buffers of the core change by ring operations and the parameters stay. -/
structure BuffersMove (s t : CoreState) : Prop where
  par : t.par = s.par
  rxOps : RingOps s.par.nRx s.rxbuf t.rxbuf
  txOps : RingOps s.par.nTx s.txbuf t.txbuf

theorem CoreEvent.buffersMove {i : Instr} {s t : CoreState} (h : CoreEvent i s t) : BuffersMove s t := by
  cases h with
  | receives _ received =>
    obtain ⟨-, rfl⟩ | ⟨-, rfl⟩ | frame := received.cases_flow
    · exact ⟨rfl, .refl, .refl⟩
    · exact ⟨rfl, .refl, .refl⟩
    · exact ⟨frame.par, frame.rxOps, frame.txOps⟩
  | fires _ branch =>
    have frame := branch.frame
    refine ⟨frame.par, frame.rxbuf ▸ .refl, ?_⟩
    obtain same | ⟨nonempty, taken⟩ := frame.txbuf
    · exact same ▸ .refl
    · exact taken ▸ .single (.get nonempty)
  | reads =>
    obtain same | ⟨nonempty, taken⟩ := readByte_eq s
    · rw [same]
      exact ⟨rfl, .refl, .refl⟩
    · rw [taken, takeByte_eq]
      exact ⟨rfl, .single (.get nonempty), .refl⟩
  | writes w => exact ⟨rfl, .refl, .single (.put w)⟩

/-- Settles O17: `RESET` refuses a change of a started core, and no other event writes the parameters. -/
theorem configurationIsImmutable : Obligations.ConfigurationIsImmutable := by
  intro i s t started ran
  obtain rfl | ran := exec_next ran
  · obtain ⟨-, same, rfl⟩ := exec_reset_next_iff.mp ran
    exact ⟨same started, rfl, rfl, rfl⟩
  · exact ⟨ran.event.buffersMove.par, ran.startedThen, ran.initParams, ran.trace⟩

/-! ### The fault (R224) -/

theorem whenStarted_fault {s : State} {r : Result} {f : Fault} (h : whenStarted s r = .fault f) :
    s.started = true ∧ r = .fault f := by
  unfold whenStarted at h
  split at h
  · exact ⟨‹_›, h⟩
  · cases h

theorem receive_error {v : Byte} {s : CoreState} {f : Fault} (failed : receive v s = .error f) :
    s.par.cfg.canonical = true ∧
      (decodeRxByte s.par v = .rxErase v ∨ decodeRxByte s.par v = .rxEraseBs v ∨ decodeRxByte s.par v = .rxKill v ∨
        decodeRxByte s.par v = .rxWerase v) := by
  rw [receive_eq] at failed
  have row := rxRow_decodeRxByte s.par v
  generalize decodeRxByte s.par v = i at row failed
  cases row with
  | erase canonical | eraseBs canonical | kill canonical | werase canonical => exact ⟨canonical, by simp⟩
  | xoff | xon | igncr | nl | ord => cases failed

/-- A firing ends in a next state or is refused. -/
theorem exec_txrdy_not_fault {s : State} {f : Fault} : exec .txrdy s ≠ .fault f := by
  intro faulted
  obtain ⟨-, faulted⟩ := whenStarted_fault faulted
  split at faulted <;> cases faulted

theorem exec_txRow_not_fault {i : Instr} {k : TxKey} {s : State} {f : Fault} (row : encode i = .txKey k) :
    exec i s ≠ .fault f := by
  intro faulted
  obtain ⟨-, same⟩ | ⟨-, refused⟩ := exec_txRow_cases s row
  · exact exec_txrdy_not_fault (same ▸ faulted)
  · obtain ⟨-, stopped⟩ := whenStarted_fault (refused.symm.trans faulted)
    split at stopped <;> cases stopped

theorem exec_rxRow_fault {i : Instr} {v : Byte} {s : State} {f : Fault} (row : encode i = .rxByte v)
    (faulted : exec i s = .fault f) : decodeRxByte s.par v = i ∧ exec (.rx v) s = .fault f := by
  obtain ⟨selected, same⟩ | ⟨-, refused⟩ := exec_rxRow_cases s row
  · exact ⟨selected, same ▸ faulted⟩
  · obtain ⟨-, stopped⟩ := whenStarted_fault (refused.symm.trans faulted)
    cases stopped

/-- Only an `RX` event faults, or the row its byte selects. -/
theorem exec_fault {i : Instr} {s : State} {f : Fault} (faulted : exec i s = .fault f) :
    ∃ v, (i = .rx v ∨ decodeRxByte s.par v = i) ∧ exec (.rx v) s = .fault f := by
  cases i with
  | reset =>
    simp only [exec, execReset] at faulted
    split_ifs at faulted
  | rx v => exact ⟨v, .inl rfl, faulted⟩
  | txrdy => exact absurd faulted exec_txrdy_not_fault
  | rd | wr =>
    obtain ⟨-, faulted⟩ := whenStarted_fault faulted
    cases faulted
  | rxXoff v | rxXon v | rxIgncr v | rxErase v | rxEraseBs v | rxKill v | rxWerase v | rxNl v | rxOrd v =>
    obtain ⟨selected, event⟩ := exec_rxRow_fault rfl faulted
    exact ⟨v, .inr selected, event⟩
  | txHalt | txLf | txErase0 | txErasen | txData | txIdle => exact absurd faulted (exec_txRow_not_fault rfl)

/-- Settles O29: the fault is that of an `RX` event, whose byte selects a row that takes characters back. -/
theorem onlyEraseEventsFault : Obligations.OnlyEraseEventsFault := by
  intro i s f faulted
  obtain ⟨v, event, faulted⟩ := exec_fault faulted
  obtain ⟨started, failed⟩ := whenStarted_fault faulted
  obtain ⟨canonical, rows⟩ := receive_error (outcome_fault.mp failed)
  refine ⟨by cases f; rfl, started, canonical, v, ?_, rows⟩
  obtain rfl | selected := event
  · exact .inl rfl
  · exact .inr (selected ▸ rows)

/-! ### A halted core (R228) -/

/-- An event of a halted core that does not resume output sends nothing. -/
theorem CoreEvent.keepsHalted {i : Instr} {s c : CoreState} (h : CoreEvent i s c) (halted : s.haltOutput = true)
    (noXon : ∀ v, i = .rx v ∨ i = .rxXon v → decodeRxByte s.par v ≠ .rxXon v) :
    c.haltOutput = true ∧ c.out = s.out := by
  cases h with
  | @receives v _ event received =>
    obtain ⟨-, rfl⟩ | ⟨resumes, -⟩ | frame := received.cases_flow
    · exact ⟨rfl, rfl⟩
    · exact absurd resumes (noXon v (event.imp_right fun selected => selected.symm.trans resumes))
    · exact ⟨frame.haltOutput.trans halted, frame.out⟩
  | fires _ branch =>
    refine ⟨branch.frame.haltOutput.trans halted, ?_⟩
    cases branch with
    | halted => rfl
    | lineFeed running | replays running | beginsReplay running | data running | idle running => simp [halted] at running
  | reads =>
    obtain same | ⟨-, taken⟩ := readByte_eq s
    · simp [same, halted]
    · simp [taken, takeByte_eq, halted]
  | writes => exact ⟨halted, rfl⟩

/-- Settles O45: by the sequence of instructions, each keeping output halted and the parameters. -/
theorem haltedCoreSendsNothing : Obligations.HaltedCoreSendsNothing := by
  intro is
  induction is with
  | nil =>
    intro s t halted _ ran
    obtain rfl := Host.Outcome.next.inj ran
    exact ⟨halted, rfl⟩
  | cons i is ih =>
    intro s t halted quiet ran
    obtain ⟨⟨notReset, noXon⟩, later⟩ := List.forall_mem_cons.mp quiet
    unfold runEvents at ran
    split at ran
    case h_1 u first =>
      obtain reset | runs := exec_next first
      · exact absurd reset notReset
      obtain ⟨haltedStill, sameOut⟩ := runs.event.keepsHalted halted noXon
      rw [← runs.event.buffersMove.par] at later
      obtain ⟨haltedThen, sameAfter⟩ := ih u t haltedStill later ran
      exact ⟨haltedThen, sameAfter.trans sameOut⟩
    all_goals cases ran

end Machine

end Sys2Proof

/-!
PROOF. What one received byte does to the resident bytes and to `EraseBacklog`: an admitted byte is appended (R141, R142); every
`RetractOne` and every sweep that does not fault takes back exactly what the views say (R160 to R163), so an event faults
exactly where its columns do not fit; from these, that `RX` completes with room and what it adds at most (R146).
-/

namespace Sys2Proof

namespace Machine

/-! ### A byte with room (R141, R142) -/

theorem slotsNeeded_pos (p : Params) (b : Byte) : 0 < slotsNeeded p b := by
  unfold slotsNeeded
  split <;> decide

theorem isAdmitted_iff {b : Byte} {s : CoreState} :
    isAdmitted b s = true ↔ slotsNeeded s.par b ≤ ringFree s.par.nRx s.rxbuf := by
  simp [isAdmitted]

/-- An admitted byte finds a free slot. -/
theorem ringPut_ok_of_admitted {b : Byte} {s : CoreState} (rxOk : ringOk s.par.nRx s.rxbuf)
    (admitted : isAdmitted b s = true) : (ringPut s.par.nRx s.rxbuf b).1 = .ok :=
  (ringPut_ok_iff b rxOk).mpr
    (ringFree_pos_iff.mp ((slotsNeeded_pos s.par b).trans_le (isAdmitted_iff.mp admitted)))

/-- After an admitted byte there is a slot left. -/
theorem length_rxResident_lt_of_admitted {b : Byte} {s : CoreState} (admitted : isAdmitted b s = true) :
    (rxResident s).length + slotsNeeded s.par b < s.par.nRx := by
  have room := isAdmitted_iff.mp admitted
  have needed := slotsNeeded_pos s.par b
  rw [rxResident, length_resident]
  unfold ringFree at room
  omega

/-- What an event does that admits the byte `b` (R141, R142): it is stored and echoed, and counted where it ends a line. -/
def admittedOutcome (s t : State) (b : Byte) : Prop :=
  rxKeeps s t ∧ rxResident t.core = rxResident s.core ++ [b] ∧ rxSlot t.core s.rxbuf.tail = b ∧
    (∀ a, a < s.par.nRx → a ≠ s.rxbuf.tail → rxSlot t.core a = rxSlot s.core a) ∧
    txAppends s t (echoBytes s.par b) ∧ t.txie = (s.txie || !(echoBytes s.par b).isEmpty) ∧
    t.lineReadyCounter =
      (if s.par.cfg.canonical = true ∧ b = s.par.nl then s.lineReadyCounter + 1 else s.lineReadyCounter) ∧
    t.haltOutput = s.haltOutput ∧ t.eraseBacklog = s.eraseBacklog

theorem admitAction_of_admitted {b : Byte} {s : CoreState} (admitted : isAdmitted b s = true) :
    admitAction b s = enqueueAll (echoBytes s.par b) (rxPut b (countLine b s)) := by
  rw [admitAction_eq, if_pos admitted]

theorem admittedOutcome_admitAction {b : Byte} {s : State} (started : s.started = true) (shape : shapeOk s)
    (admitted : isAdmitted b s.core = true) : admittedOutcome s (withCore (admitAction b s.core) s) b := by
  obtain ⟨-, rings⟩ := shape
  obtain ⟨rxOk, txOk⟩ := rings started
  have ok := ringPut_ok_of_admitted rxOk admitted
  have slots : ∀ a, a < s.par.nRx → slotByte .rx s.par.nRx (ringPut s.par.nRx s.rxbuf b).2 a =
      if a = s.rxbuf.tail then b else slotByte .rx s.par.nRx s.rxbuf a := fun a ha => slotByte_ringPut .rx rxOk ok ha
  have ⟨_, tailOk, _⟩ := rxOk
  rw [admitAction_of_admitted admitted, countLine_eq]
  have appended := txAppends_enqueueAll (c := rxPut b (setLineReadyCounter
    (if s.par.cfg.canonical = true ∧ b = s.par.nl then s.lineReadyCounter + 1 else s.lineReadyCounter) s.core))
    (echoBytes s.par b) txOk rfl rfl
  rw [enqueueAll_eq] at appended ⊢
  refine ⟨⟨rfl, ringPut_head _ _ _, ringPutAll_head _ _ _, rfl, rfl, rfl, rfl, rfl, rfl, rfl, rfl⟩,
    resident_ringPut .rx rxOk ok, (slots _ tailOk).trans (if_pos rfl),
    fun a ha other => (slots a ha).trans (if_neg other), appended, rfl, rfl, rfl, rfl⟩

/-- Settles O22: the row admits the byte, which is no `NL` and so is not counted. -/
theorem ordinaryByteAdmitted : Obligations.OrdinaryByteAdmitted := by
  intro s v started shape wf room
  have notNl := receivedByte_ne_nl_of_wellFormed wf
  have admitted : isAdmitted (receivedByte s.par v) s.core = true :=
    isAdmitted_iff.mpr (by rwa [slotsNeeded_of_ne_nl notNl])
  obtain ⟨keeps, residents, put, slots, echoes, txie, counter, rest⟩ :=
    admittedOutcome_admitAction started shape admitted
  exact ⟨_, exec_rxOrd started wf, keeps, residents, put, slots, echoes, txie,
    counter.trans (if_neg fun h => notNl h.2), rest⟩

/-- Settles O23: the row admits `NL`, which is counted where the mode is canonical. -/
theorem newlineAdmitted : Obligations.NewlineAdmitted := by
  intro s v started shape wf room
  have admitted : isAdmitted s.par.nl s.core = true := isAdmitted_iff.mpr (by rwa [slotsNeeded_nl])
  obtain ⟨keeps, residents, put, slots, echoes, txie, counter, rest⟩ :=
    admittedOutcome_admitAction started shape admitted
  exact ⟨_, exec_rxNl started wf, keeps, residents, put, slots, echoes, txie, by simpa using counter, rest⟩

/-! ### What a `RetractOne` and a sweep that do not fault take back (R160 to R163) -/

section Exact

variable {stop : Stop} {isKill : Bool} {s t : CoreState}

/-- Everything a `BacklogAdd` that succeeds does, in the terms of the columns owed. -/
theorem backlogAdd_owes {c : Byte} (added : backlogAdd c isKill s = .ok t) :
    t = setTxIrq (s.txie || visualFlag s.par isKill)
      (setEraseBacklog (s.eraseBacklog + columnsOwed s.par isKill [c]) s) := by
  obtain ⟨visual, rfl⟩ | ⟨hidden, rfl⟩ := backlogAdd_ok added
  · simp [columnsOwed, visual]
  · simp [columnsOwed, hidden, setTxIrq, setEraseBacklog]

/-- A `RetractOne` takes back the first of what a sweep would. -/
theorem retracted_of_retractOne {e : Bool} (hr : ringOk s.par.nRx s.rxbuf)
    (done : retractOne stop isKill s = .ok (e, t)) :
    Retracted isKill ((sweepRemoves s.par stop (rxResident s)).take 1) s t ∧
      (e = false → sweepRemoves s.par stop (rxResident s) = []) := by
  obtain none | ⟨l, c, newest⟩ := (rxResident s).eq_nil_or_concat'
  · cases (retractOne_of_empty hr none).symm.trans done
    simp [none, Retracted.refl isKill hr]
  by_cases stopping : c = s.par.nl ∨ stops s.par stop c = true
  case pos =>
    obtain ⟨u, stopped, kept⟩ := retractOne_of_stopping (isKill := isKill) hr newest stopping
    cases stopped.symm.trans done
    simp [newest, sweepRemoves_concat_of_stopping stopping, kept]
  case neg =>
    obtain ⟨q, unput, ringKept, headKept, older, slotsKept⟩ := ringUnput_of_newest hr newest
    simp only [retractOne, unput] at done
    rw [if_neg stopping] at done
    split at done
    · cases done
    rename_i u added
    cases done
    rw [newest, sweepRemoves_concat_of_erasable stopping, backlogAdd_owes added]
    refine ⟨?_, by simp⟩
    exact {
      core := by simp [setTxIrq, setEraseBacklog, setRxbuf]
      ring := ringKept
      head := headKept
      slots := slotsKept
      residents := older }

theorem removable_of_mem_sweepRemoves {p : Params} {l : List Byte} {c : Byte} (mem : c ∈ sweepRemoves p stop l) :
    (c != p.nl && !stops p stop c) = true := by
  have removable := List.mem_takeWhile_imp mem
  exact removable

/-- With the first `k` characters of a sweep gone, the sweep would remove the others. -/
theorem sweepRemoves_of_dropped {p : Params} {l left : List Byte} {k : Nat}
    (dropped : left ++ ((sweepRemoves p stop l).take k).reverse = l) :
    sweepRemoves p stop left = (sweepRemoves p stop l).drop k := by
  have removable : ∀ c ∈ (sweepRemoves p stop l).take k, (c != p.nl && !stops p stop c) = true :=
    fun c hc => removable_of_mem_sweepRemoves (List.mem_of_mem_take hc)
  have whole : sweepRemoves p stop l = (sweepRemoves p stop l).take k ++ sweepRemoves p stop left := by
    conv_lhs => rw [← dropped, sweepRemoves, List.reverse_append, List.reverse_reverse,
      List.takeWhile_append_of_pos removable]
    rfl
  exact List.append_cancel_left (whole.symm.trans (List.take_append_drop k _).symm)

/-- A sweep takes back, of what the view says, as many characters as it may make calls. -/
theorem retracted_of_retractFuel {fuel k : Nat} (hr : ringOk s.par.nRx s.rxbuf)
    (done : retractFuel fuel stop isKill s = .ok (k, t)) :
    Retracted isKill ((sweepRemoves s.par stop (rxResident s)).take fuel) s t := by
  induction fuel generalizing k s with
  | zero =>
    cases done
    exact .refl isKill hr
  | succ fuel ih =>
    rw [retractFuel_succ] at done
    split at done
    · cases done
    · rename_i stopped
      cases done
      obtain ⟨kept, nothing⟩ := retracted_of_retractOne hr stopped
      rw [nothing rfl] at kept ⊢
      exact kept
    · rename_i mid erased
      split at done
      · cases done
      rename_i swept
      cases done
      obtain ⟨first, -⟩ := retracted_of_retractOne hr erased
      have rest := sweepRemoves_of_dropped (stop := stop) first.residents
      have later := ih (first.par ▸ first.ring) swept
      rw [rxResident, first.par, rest] at later
      have both := first.trans later
      rwa [← List.take_add, Nat.add_comm] at both

theorem length_sweepRemoves_le (p : Params) (stop : Stop) (l : List Byte) : (sweepRemoves p stop l).length ≤ l.length := by
  rw [sweepRemoves, ← List.length_reverse (as := l)]
  exact (List.takeWhile_sublist _).length_le

theorem retracted_of_retractUntil {k : Nat} (hr : ringOk s.par.nRx s.rxbuf)
    (done : retractUntil stop isKill s = .ok (k, t)) :
    Retracted isKill (sweepRemoves s.par stop (rxResident s)) s t := by
  have enough := length_sweepRemoves_le s.par stop (rxResident s)
  rw [rxResident, length_resident, ← rxResident] at enough
  have taken := retracted_of_retractFuel hr done
  rwa [List.take_of_length_le (by omega)] at taken

/-- An erase removes the first of what a kill would (R138, R139). -/
theorem eraseRemoves_eq (p : Params) (l : List Byte) : eraseRemoves p l = (sweepRemoves p .none l).take 1 := by
  obtain rfl | ⟨l, c, rfl⟩ := l.eq_nil_or_concat'
  · rfl
  by_cases nl : c = p.nl
  · simp [eraseRemoves, nl, sweepRemoves_concat_of_stopping]
  · simp [eraseRemoves, nl, sweepRemoves_concat_of_erasable, stops]

end Exact

/-! ### The fault of an event that takes characters back (R27, R162) -/

section Room

variable {isKill : Bool} {cs : List Byte} {s t u : CoreState} {b : Byte}

/-- What has been taken back and accounted for had room in `EraseBacklog`. -/
theorem Retracted.room (h : Retracted isKill cs s u) (steps : Retracts isKill s u)
    (inWidth : s.eraseBacklog < 2 ^ s.par.ebW) : s.eraseBacklog + columnsOwed s.par isKill cs < 2 ^ s.par.ebW :=
  h.eraseBacklog ▸ steps.queueFrame.inWidth inWidth

theorem room_of_eraseAction (hr : ringOk s.par.nRx s.rxbuf) (inWidth : s.eraseBacklog < 2 ^ s.par.ebW)
    (done : eraseAction b s = .ok t) :
    s.eraseBacklog + columnsOwed s.par false (eraseRemoves s.par (rxResident s)) < 2 ^ s.par.ebW := by
  obtain ⟨e, u, ws, -, taken, -⟩ := eraseAction_ok done
  obtain ⟨removed, -⟩ := retracted_of_retractOne hr taken
  rw [eraseRemoves_eq]
  exact removed.room (retracts_of_retractOne taken) inWidth

theorem room_of_killAction (hr : ringOk s.par.nRx s.rxbuf) (inWidth : s.eraseBacklog < 2 ^ s.par.ebW)
    (done : killAction b s = .ok t) :
    s.eraseBacklog + columnsOwed s.par true (sweepRemoves s.par .none (rxResident s)) < 2 ^ s.par.ebW := by
  obtain ⟨n, u, ws, -, swept, -⟩ := killAction_ok done
  exact (retracted_of_retractUntil hr swept).room (retracts_of_retractFuel swept) inWidth

theorem room_of_weraseAction (hr : ringOk s.par.nRx s.rxbuf) (inWidth : s.eraseBacklog < 2 ^ s.par.ebW)
    (done : weraseAction b s = .ok t) :
    s.eraseBacklog + columnsOwed s.par false (weraseRemoves s.par (rxResident s)) < 2 ^ s.par.ebW := by
  obtain ⟨n, m, mid, u, ws, -, spacesSwept, wordSwept, -⟩ := weraseAction_ok done
  have spaces := retracted_of_retractUntil hr spacesSwept
  have word := retracted_of_retractUntil (spaces.par ▸ spaces.ring) wordSwept
  rw [spaces.rxResident_eq (sweepLeaves_append_sweepRemoves _ _ _), spaces.par] at word
  exact (spaces.trans word).room ((retracts_of_retractFuel spacesSwept).trans (retracts_of_retractFuel wordSwept)) inWidth

end Room

/-- An action that runs exactly where `EraseBacklog` has room for `k` faults exactly where it has not. -/
theorem outcome_fault_iff_noRoom {s : State} {act : Except Fault CoreState} {k : Nat}
    (runs : backlogRoom k s → ∃ t, act = .ok t) (room : ∀ t, act = .ok t → backlogRoom k s) :
    outcome act s = .fault .eraseBacklogOverflow ↔ ¬ backlogRoom k s := by
  rw [outcome_fault]
  constructor
  · intro failed fits
    obtain ⟨t, done⟩ := runs fits
    cases failed.symm.trans done
  · intro noRoom
    cases act with
    | ok t => exact absurd (room t rfl) noRoom
    | error f => cases f; rfl

/-- Settles O28: each row's action runs exactly where there is room for the columns it owes. -/
theorem backlogOverflowFaults : Obligations.BacklogOverflowFaults := by
  intro s v started shape inWidth
  obtain ⟨-, rings⟩ := shape
  obtain ⟨rxOk, -⟩ := rings started
  have width := inWidth started
  have erases : ∀ b, outcome (eraseAction b s.core) s = .fault .eraseBacklogOverflow ↔
      ¬ backlogRoom (columnsOwed s.par false (eraseRemoves s.par (rxResident s.core))) s := fun b =>
    outcome_fault_iff_noRoom
      (fun room => have ⟨_, _, done⟩ := eraseAction_of_room b rxOk room; ⟨_, done⟩)
      (fun _ => room_of_eraseAction rxOk width)
  refine ⟨fun wf => ?byCode, fun wf => ?byBackspace, fun wf => ?kill, fun wf => ?werase⟩
  case byCode =>
    rw [exec_rxErase started wf]
    exact erases _
  case byBackspace =>
    rw [exec_rxEraseBs started wf]
    exact erases _
  case kill =>
    rw [exec_rxKill started wf]
    exact outcome_fault_iff_noRoom
      (fun room => have ⟨_, _, done⟩ := killAction_of_room _ rxOk room; ⟨_, done⟩)
      (fun _ => room_of_killAction rxOk width)
  case werase =>
    rw [exec_rxWerase started wf]
    exact outcome_fault_iff_noRoom
      (fun room => have ⟨_, _, done⟩ := weraseAction_of_room _ rxOk room; ⟨_, done⟩)
      (fun _ => room_of_weraseAction rxOk width)

/-! ### `RX` completes with room (R130, R146) -/

theorem columns_le (p : Params) (c : Byte) : columns p c ≤ 2 := by
  unfold columns
  split <;> decide

theorem columnsOwed_le (p : Params) (isKill : Bool) (cs : List Byte) : columnsOwed p isKill cs ≤ 2 * cs.length := by
  unfold columnsOwed
  split
  · have bound := List.sum_le_card_nsmul (cs.map (columns p)) 2 (by simp [columns_le])
    simpa [Nat.mul_comm] using bound
  · exact Nat.zero_le _

/-- What is removed of `l` owes at most two columns a byte of `l`. -/
theorem columnsOwed_le_of_split {left removed l : List Byte} (p : Params) (isKill : Bool)
    (split : left ++ removed.reverse = l) : columnsOwed p isKill removed ≤ 2 * l.length := by
  have owed := columnsOwed_le p isKill removed
  have length := congrArg List.length split
  rw [List.length_append, List.length_reverse] at length
  omega

/-- Settles O30: no row owes more columns than there is room for, and the row is the event. -/
theorem receiveEventCompletes : Obligations.ReceiveEventCompletes := by
  intro s v started shape room
  obtain ⟨-, rings⟩ := shape
  obtain ⟨rxOk, -⟩ := rings started
  have fits : ∀ {isKill : Bool} {left removed : List Byte}, left ++ removed.reverse = rxResident s.core →
      s.eraseBacklog + columnsOwed s.par isKill removed < 2 ^ s.par.ebW := fun split =>
    (Nat.add_le_add_left (columnsOwed_le_of_split s.par _ split) _).trans_lt room
  have done : ∃ c, receive v s.core = .ok c := by
    rw [receive_eq]
    have row := rxRow_decodeRxByte s.par v
    generalize decodeRxByte s.core.par v = i at row
    cases row with
    | xoff | xon | igncr | nl | ord => exact ⟨_, rfl⟩
    | erase | eraseBs =>
      obtain ⟨u, -, done⟩ := eraseAction_of_room _ rxOk (fits (eraseLeaves_append_eraseRemoves _ _))
      exact ⟨_, done⟩
    | kill =>
      obtain ⟨u, -, done⟩ := killAction_of_room _ rxOk (fits (sweepLeaves_append_sweepRemoves _ _ _))
      exact ⟨_, done⟩
    | werase =>
      obtain ⟨u, -, done⟩ := weraseAction_of_room _ rxOk (fits (weraseLeaves_append_weraseRemoves _ _))
      exact ⟨_, done⟩
  obtain ⟨c, done⟩ := done
  have ran : exec (.rx v) s = .next (withCore c s) := by rw [exec_rx started, done]; rfl
  exact ⟨_, ran, exec_rx_eq s v ▸ ran, rxKeeps_of_received (received_of_receive done)⟩

/-! ### The bounds of R146 -/

section EnqueueAll

variable (ws : List Byte) (s : CoreState)

@[simp] theorem enqueueAll_par : (enqueueAll ws s).par = s.par := by rw [enqueueAll_eq]; rfl
@[simp] theorem enqueueAll_rxbuf : (enqueueAll ws s).rxbuf = s.rxbuf := by rw [enqueueAll_eq]; rfl
@[simp] theorem enqueueAll_lineReadyCounter : (enqueueAll ws s).lineReadyCounter = s.lineReadyCounter := by
  rw [enqueueAll_eq]; rfl
@[simp] theorem enqueueAll_eraseBacklog : (enqueueAll ws s).eraseBacklog = s.eraseBacklog := by
  rw [enqueueAll_eq]; rfl
@[simp] theorem rxResident_enqueueAll : rxResident (enqueueAll ws s) = rxResident s := by simp [rxResident]

theorem length_txResident_enqueueAll_le (txOk : ringOk s.par.nTx s.txbuf) :
    (txResident (enqueueAll ws s)).length ≤ (txResident s).length + ws.length := by
  have appended : txResident (enqueueAll ws s) = (txResident s ++ ws).take (s.par.nTx - 1) := by
    rw [enqueueAll_eq]
    exact resident_ringPutAll_take .tx ws txOk
  rw [appended, ← List.length_append]
  exact List.length_take_le' _ _

end EnqueueAll

/-- The characters a sweep may remove are the newest of the current line. -/
theorem currentLine_append_reverse {p : Params} {l cs : List Byte} (noNl : p.nl ∉ cs) :
    currentLineNewestFirst p (l ++ cs.reverse) = cs ++ currentLineNewestFirst p l := by
  have inLine : ∀ c ∈ cs, (c != p.nl) = true := by
    intro c hc
    rw [bne_iff_ne]
    rintro rfl
    exact noNl hc
  rw [currentLineNewestFirst, List.reverse_append, List.reverse_reverse, List.takeWhile_append_of_pos inLine,
    currentLineNewestFirst]

/-- Any number of `RetractOne`s take back bytes of the current line. -/
theorem Retracts.retracted {isKill : Bool} {s t : CoreState} (h : Retracts isKill s t)
    (hr : ringOk s.par.nRx s.rxbuf) : ∃ cs, s.par.nl ∉ cs ∧ Retracted isKill cs s t := by
  induction h with
  | refl => exact ⟨[], by simp, .refl isKill hr⟩
  | @tail t u _ last ih =>
    obtain ⟨cs, noNl, taken⟩ := ih
    obtain ⟨stop, e, done⟩ := last
    obtain ⟨more, -⟩ := retracted_of_retractOne (taken.par ▸ taken.ring) done
    refine ⟨_, ?_, taken.trans more⟩
    rw [List.mem_append, not_or]
    refine ⟨noNl, fun mem => ?_⟩
    have removable := removable_of_mem_sweepRemoves (List.mem_of_mem_take mem)
    simp [taken.par] at removable

theorem Retracted.rxResident_append {isKill : Bool} {cs : List Byte} {s t : CoreState} (h : Retracted isKill cs s t) :
    rxResident t ++ cs.reverse = rxResident s := by
  rw [rxResident, h.par]
  exact h.residents

theorem Retracted.lineReadyCounter {isKill : Bool} {cs : List Byte} {s t : CoreState} (h : Retracted isKill cs s t) :
    t.lineReadyCounter = s.lineReadyCounter := by
  rw [h.core]
  rfl

/-- An admitted byte becomes the newest resident one. -/
theorem rxResident_admits {b : Byte} {s : CoreState} (rxOk : ringOk s.par.nRx s.rxbuf)
    (admitted : isAdmitted b s = true) : rxResident (rxPut b (countLine b s)) = rxResident s ++ [b] := by
  rw [countLine_eq]
  exact resident_ringPut .rx rxOk (ringPut_ok_of_admitted rxOk admitted)

/-- What a received byte adds to the core at most, the columns aside: two bytes in `TXBUF`, one in `RXBUF`, one line. -/
structure AddsAtMost (s t : CoreState) : Prop where
  tx : (txResident t).length ≤ (txResident s).length + 2
  rx : (rxResident t).length ≤ (rxResident s).length + 1
  lines : t.lineReadyCounter.toNat ≤ s.lineReadyCounter.toNat + 1
  backlog : t.eraseBacklog ≤ s.eraseBacklog + 2 * (s.par.nRx - 2)

/-- The enqueues of a received byte add at most two bytes to `TXBUF` and nothing elsewhere. -/
theorem AddsAtMost.enqueueAll {s u : CoreState} {ws : List Byte} (few : ws.length ≤ 2)
    (txOk : ringOk u.par.nTx u.txbuf) (sameTx : txResident u = txResident s) (adds : AddsAtMost s u) :
    AddsAtMost s (enqueueAll ws u) where
  tx := by
    have queued := length_txResident_enqueueAll_le ws u txOk
    rw [sameTx] at queued
    omega
  rx := by simpa using adds.rx
  lines := by simpa using adds.lines
  backlog := by simpa using adds.backlog

theorem toNat_add_one_le (n : BitVec 8) : (n + 1).toNat ≤ n.toNat + 1 := by
  rw [BitVec.toNat_add]
  exact Nat.mod_le _ _

theorem addsAtMost_of_received {v : Byte} {s t : CoreState} (rxOk : ringOk s.par.nRx s.rxbuf)
    (txOk : ringOk s.par.nTx s.txbuf)
    (lineRoom : s.par.cfg.canonical = true → (currentLineNewestFirst s.par (rxResident s)).length ≤ s.par.nRx - 2)
    (received : Received v s t) : AddsAtMost s t := by
  have nothing : AddsAtMost s s := ⟨by omega, by omega, by omega, by omega⟩
  cases received with
  | pauses | resumes => exact ⟨nothing.tx, nothing.rx, nothing.lines, nothing.backlog⟩
  | queues ws few => exact nothing.enqueueAll few txOk rfl
  | @retracts isKill u ws few canonical taken =>
    obtain ⟨cs, noNl, removed⟩ := taken.retracted rxOk
    have sameBuffer : u.txbuf = s.txbuf := by rw [removed.core]; rfl
    have sameTx : txResident u = txResident s := by rw [txResident, removed.par, sameBuffer]; rfl
    have residents := removed.rxResident_append
    have inLine : cs.length ≤ s.par.nRx - 2 := by
      have room := lineRoom canonical
      rw [← residents, currentLine_append_reverse noNl, List.length_append] at room
      omega
    have owed := columnsOwed_le s.par isKill cs
    refine AddsAtMost.enqueueAll few (by rwa [removed.par, sameBuffer]) sameTx ⟨?tx, ?rx, ?lines, ?backlog⟩
    case tx => rw [sameTx]; omega
    case rx => rw [← residents, List.length_append]; omega
    case lines => rw [removed.lineReadyCounter]; omega
    case backlog => rw [removed.eraseBacklog]; omega
  | admits b ws few admitted =>
    have residents := congrArg List.length (rxResident_admits rxOk admitted)
    rw [List.length_append, List.length_singleton] at residents
    rw [countLine_eq] at residents ⊢
    refine AddsAtMost.enqueueAll few txOk rfl ⟨nothing.tx, residents.le, ?_, nothing.backlog⟩
    change BitVec.toNat (if _ then _ else _) ≤ _
    split
    · exact toNat_add_one_le _
    · exact Nat.le_succ _

/-- Settles O31: the bounds of R146 on what a received byte does to the core. -/
theorem receiveEventBounds : Obligations.ReceiveEventBounds := by
  intro s t v shape lineRoom ran
  obtain ⟨started, c, received, rfl⟩ := exec_rx_next ran
  obtain ⟨-, rings⟩ := shape
  obtain ⟨rxOk, txOk⟩ := rings started
  have adds := addsAtMost_of_received rxOk txOk (lineRoom started) received
  exact ⟨adds.tx, adds.rx, adds.lines, adds.backlog⟩

end Machine

end Sys2Proof

/-!
PROOF. The invariants (R23 to R28, R48, R64, R141): a step is nothing, a launch, or one event of a started core, so an invariant
of the core needs two proofs, that a launch establishes it and that an event keeps it. Ring operations keep the form of a buffer
and its resident slots written; what an event does to the resident lines is said once, and the counter and the line's room
follow. At the end all the invariants together along a run.
-/

namespace Sys2Proof

namespace Machine

/-! ### Everything a step does -/

/-- What a step from `s` to `t` is. -/
inductive StepEffect (s t : State) : Prop
  | quiet (same : t = s)
  | launches (fit : launchable s.initParams = true) (unchanged : s.started = true → s.initParams = s.par)
      (startedThen : t.started = true) (core : t.core = resetRegisters s.initParams s.core)
  | runs (i : Instr) (started : s.started = true) (startedThen : t.started = true) (event : CoreEvent i s.core t.core)

theorem stepEffect_of_step {s t : State} (stepped : step s = .next t) : StepEffect s t := by
  obtain ⟨-, same⟩ | ⟨w, ws, i, -, -, ran⟩ := step_next stepped
  · exact .quiet same
  · obtain rfl | runs := exec_next ran
    · obtain ⟨fit, unchanged, rfl⟩ := exec_reset_next_iff.mp ran
      exact .launches fit unchanged rfl rfl
    · exact .runs i runs.started runs.startedThen runs.event

/-- What a launch establishes and every event of a started core keeps, every step keeps. -/
theorem step_keeps {P : CoreState → Prop} {s t : State} (stepped : step s = .next t) (h : s.started = true → P s.core)
    (launched : launchable s.initParams = true → (s.started = true → s.initParams = s.par) →
      P (resetRegisters s.initParams s.core))
    (kept : ∀ i c, s.started = true → CoreEvent i s.core c → P s.core → P c) : t.started = true → P t.core := by
  cases stepEffect_of_step stepped with
  | quiet same => exact same ▸ h
  | launches fit unchanged _ core => exact fun _ => core ▸ launched fit unchanged
  | runs i started _ event => exact fun _ => kept i _ started event (h started)

/-! ### The shape (R23 to R25, R223) -/

section RingOps

variable {n : Nat} {r q : Ring}

theorem ringOk_of_ringOp (op : RingOp n r q) (hr : ringOk n r) : ringOk n q := by
  cases op with
  | put v => exact ringOk_ringPut v hr
  | get => exact ringOk_headNext hr
  | unput =>
    obtain ⟨hhead, htail, storage⟩ := hr
    exact ⟨hhead, cursorPrev_lt (by omega), storage⟩

theorem ringOk_of_ringOps (ops : RingOps n r q) (hr : ringOk n r) : ringOk n q := by
  induction ops with
  | refl => exact hr
  | tail _ last ih => exact ringOk_of_ringOp last ih

/-- With both cursors at 0, a storage within its slots is a buffer of good form. -/
theorem ringOk_reset {m : List Host.Cell} (positive : 0 < n) (wf : Memory.wf m = true)
    (below : slotsBelow n m = true) : ringOk n ⟨0, 0, m⟩ :=
  ⟨positive, positive, wf, below⟩

end RingOps

/-- The shape of a started core: launchable parameters and both buffers of good form. -/
structure CoreShape (s : CoreState) : Prop where
  launchable : launchable s.par = true
  rxOk : ringOk s.par.nRx s.rxbuf
  txOk : ringOk s.par.nTx s.txbuf

theorem coreShape_of_shapeOk {s : State} (shape : shapeOk s) (started : s.started = true) : CoreShape s.core := by
  obtain ⟨⟨fit, -⟩, rings⟩ := shape
  obtain ⟨rxOk, txOk⟩ := rings started
  exact ⟨fit started, rxOk, txOk⟩

theorem CoreEvent.keepsShape {i : Instr} {s c : CoreState} (event : CoreEvent i s c) (h : CoreShape s) :
    CoreShape c := by
  have moves := event.buffersMove
  exact ⟨moves.par ▸ h.launchable, moves.par ▸ ringOk_of_ringOps moves.rxOps h.rxOk,
    moves.par ▸ ringOk_of_ringOps moves.txOps h.txOk⟩

/-- A launch keeps the storages, which are those of a core with the same parameters, or empty. -/
theorem coreShape_resetRegisters {s : State} (shape : shapeOk s) (fit : launchable s.initParams = true)
    (unchanged : s.started = true → s.initParams = s.par) : CoreShape (resetRegisters s.initParams s.core) := by
  obtain ⟨⟨nRx, -⟩, ⟨nTx, -⟩, -⟩ := launchable_bounds fit
  have storages : (Memory.wf s.rxbuf.storage = true ∧ slotsBelow s.initParams.nRx s.rxbuf.storage = true) ∧
      Memory.wf s.txbuf.storage = true ∧ slotsBelow s.initParams.nTx s.txbuf.storage = true := by
    cases running : s.started with
    | true =>
      obtain ⟨-, ⟨-, -, rx⟩, ⟨-, -, tx⟩⟩ := coreShape_of_shapeOk shape running
      rw [unchanged running]
      exact ⟨rx, tx⟩
    | false =>
      obtain ⟨⟨-, nothing⟩, -⟩ := shape
      obtain ⟨rx, tx⟩ := nothing running
      rw [rx, tx]
      exact ⟨⟨rfl, rfl⟩, rfl, rfl⟩
  obtain ⟨⟨rxWf, rxBelow⟩, txWf, txBelow⟩ := storages
  exact ⟨fit, ringOk_reset (Nat.zero_lt_of_lt nRx) rxWf rxBelow, ringOk_reset (Nat.zero_lt_of_lt nTx) txWf txBelow⟩

/-- Settles O54: a launch establishes the shape and every event keeps it; a core not started has not moved. -/
theorem stepKeepsShape : Obligations.StepKeepsShape := by
  intro s t shape stepped
  have running : t.started = true → CoreShape t.core :=
    step_keeps stepped (coreShape_of_shapeOk shape) (coreShape_resetRegisters shape)
      fun _ _ _ event => event.keepsShape
  refine ⟨⟨fun started => (running started).launchable, fun notStarted => ?_⟩,
    fun started => ⟨(running started).rxOk, (running started).txOk⟩⟩
  cases stepEffect_of_step stepped with
  | quiet same =>
    subst same
    obtain ⟨⟨-, nothing⟩, -⟩ := shape
    exact nothing notStarted
  | launches _ _ startedThen | runs _ _ startedThen => simp [startedThen] at notStarted

/-! ### The resident slots are written (R64) -/

section Written

variable {n : Nat} {r q : Ring}

theorem residentWritten_of_empty (empty : r.head = r.tail) : residentWritten n r := by
  intro i hi
  simp [ringCount, empty] at hi

theorem residentWritten_of_ringOp (op : RingOp n r q) (hr : ringOk n r) (h : residentWritten n r) :
    residentWritten n q := by
  obtain ⟨hhead, htail, -⟩ := hr
  intro i hi
  cases op with
  | put v =>
    obtain ⟨-, full⟩ | ⟨room, stored⟩ := ringPut_cases n r v
    · rw [full] at hi ⊢
      exact h i hi
    rw [stored] at hi ⊢
    rw [ringCount_tail_next _ hhead htail room] at hi
    by_cases newest : (r.head + i) % n = r.tail % n
    · simp [newest]
    · have older : i ≠ ringCount n r := by
        rintro rfl
        exact newest (by rw [head_add_ringCount hhead htail, Nat.mod_eq_of_lt htail])
      rw [memRead_memWrite_other _ _ newest]
      exact h i (by omega)
  | get nonempty =>
    have fewer := ringCount_head_next hhead htail nonempty
    have slot : (cursorNext n r.head + i) % n = (r.head + (i + 1)) % n := by
      rw [cursorNext, Nat.mod_add_mod, Nat.add_assoc, Nat.add_comm 1 i]
    rw [slot]
    exact h (i + 1) (by omega)
  | unput nonempty =>
    have fewer := ringCount_tail_prev hhead htail nonempty
    exact h i (by omega)

theorem residentWritten_of_ringOps (ops : RingOps n r q) (hr : ringOk n r) (h : residentWritten n r) :
    residentWritten n q := by
  induction ops with
  | refl => exact h
  | tail before last ih => exact residentWritten_of_ringOp last (ringOk_of_ringOps before hr) ih

end Written

/-- Settles O55: a launch leaves nothing resident, and events change the buffers by ring operations only. -/
theorem stepKeepsResidentWritten : Obligations.StepKeepsResidentWritten := by
  intro s t shape written stepped
  refine step_keeps (P := fun c => residentWritten c.par.nRx c.rxbuf ∧ residentWritten c.par.nTx c.txbuf) stepped written
    (fun _ _ => ⟨residentWritten_of_empty rfl, residentWritten_of_empty rfl⟩) fun i c started event h => ?_
  obtain ⟨-, rxOk, txOk⟩ := coreShape_of_shapeOk shape started
  obtain ⟨rxWritten, txWritten⟩ := h
  have moves := event.buffersMove
  rw [moves.par]
  exact ⟨residentWritten_of_ringOps moves.rxOps rxOk rxWritten, residentWritten_of_ringOps moves.txOps txOk txWritten⟩

/-! ### The resident lines (R26, R141, R142, R201) -/

/-- What an event does to the bytes resident in `RXBUF` and to `LineReadyCounter`. -/
inductive LineChange (s t : CoreState) : Prop
  | takenBack (cs : List Byte) (noNl : s.par.nl ∉ cs) (residents : rxResident t ++ cs.reverse = rxResident s)
      (counter : t.lineReadyCounter = s.lineReadyCounter)
  | admitted (b : Byte) (room : isAdmitted b s = true) (residents : rxResident t = rxResident s ++ [b])
      (counter : t.lineReadyCounter =
        if s.par.cfg.canonical = true ∧ b = s.par.nl then s.lineReadyCounter + 1 else s.lineReadyCounter)
  | read (v : Byte) (gate : s.par.cfg.canonical = true → s.lineReadyCounter ≠ 0)
      (residents : rxResident s = v :: rxResident t)
      (counter : t.lineReadyCounter =
        if s.par.cfg.canonical = true ∧ v = s.par.nl then s.lineReadyCounter - 1 else s.lineReadyCounter)

/-- Nothing taken back, admitted or read. -/
theorem LineChange.none {s t : CoreState} (residents : rxResident t = rxResident s)
    (counter : t.lineReadyCounter = s.lineReadyCounter) : LineChange s t :=
  .takenBack [] (by simp) (by simpa using residents) counter

theorem lineChange_of_received {v : Byte} {s t : CoreState} (rxOk : ringOk s.par.nRx s.rxbuf)
    (received : Received v s t) : LineChange s t := by
  cases received with
  | pauses | resumes => exact .none rfl rfl
  | queues ws => exact .none (by simp) (by simp)
  | retracts ws _ _ taken =>
    obtain ⟨cs, noNl, removed⟩ := taken.retracted rxOk
    exact .takenBack cs noNl (by simpa using removed.rxResident_append)
      (by simpa using removed.lineReadyCounter)
  | admits b ws _ room =>
    exact .admitted b room (by simpa using rxResident_admits rxOk room) (by simp [countLine_eq, rxPut])

theorem CoreEvent.lineChange {i : Instr} {s t : CoreState} (event : CoreEvent i s t)
    (rxOk : ringOk s.par.nRx s.rxbuf) : LineChange s t := by
  cases event with
  | receives _ received => exact lineChange_of_received rxOk received
  | fires _ branch =>
    have frame := branch.frame
    exact .none (by rw [rxResident, rxResident, frame.par, frame.rxbuf]) frame.lineReadyCounter
  | reads =>
    obtain ⟨-, nothing⟩ | ⟨v, gate, residents, taken⟩ := readByte_cases rxOk
    · rw [nothing]
      exact .none rfl rfl
    · rw [taken]
      exact .read v gate residents (by simp [takeByte_eq])
  | writes w => exact .none rfl rfl

/-- `LineReadyCounter` counts the resident `NL`s in canonical mode and stays 0 in raw mode (R26). -/
def LinesCounted (s : CoreState) : Prop :=
  (s.par.cfg.canonical = true → s.lineReadyCounter.toNat = (rxResident s).count s.par.nl) ∧
    (s.par.cfg.canonical = false → s.lineReadyCounter = 0)

theorem CoreEvent.keepsLinesCounted {i : Instr} {s t : CoreState} (event : CoreEvent i s t) (shape : CoreShape s)
    (h : LinesCounted s) : LinesCounted t := by
  obtain ⟨counts, raw⟩ := h
  rw [LinesCounted, event.buffersMove.par]
  cases event.lineChange shape.rxOk with
  | takenBack cs noNl residents counter =>
    have none : cs.reverse.count s.par.nl = 0 := List.count_eq_zero.mpr (by simpa using noNl)
    refine ⟨fun canonical => ?_, fun isRaw => counter.trans (raw isRaw)⟩
    rw [counter, counts canonical, ← residents, List.count_append, none, Nat.add_zero]
  | admitted b room residents counter =>
    refine ⟨fun canonical => ?_, fun isRaw => (counter.trans (if_neg (by simp [isRaw]))).trans (raw isRaw)⟩
    rw [counter, residents, List.count_append]
    by_cases nl : b = s.par.nl
    · have fits := length_rxResident_lt_of_admitted room
      have needed := slotsNeeded_pos s.par b
      have atMost := (rxResident s).count_le_length (a := s.par.nl)
      have one : (1 : BitVec 8).toNat = 1 := rfl
      obtain ⟨⟨-, capacity⟩, -⟩ := launchable_bounds shape.launchable
      rw [if_pos ⟨canonical, nl⟩, BitVec.toNat_add, counts canonical, nl, List.count_singleton_self]
      exact Nat.mod_eq_of_lt (by omega)
    · rw [if_neg fun h => nl h.2, counts canonical, List.count_singleton, if_neg (by simpa using nl), Nat.add_zero]
  | read v gate residents counter =>
    refine ⟨fun canonical => ?_, fun isRaw => (counter.trans (if_neg (by simp [isRaw]))).trans (raw isRaw)⟩
    have counted := counts canonical
    rw [residents, List.count_cons] at counted
    rw [counter]
    by_cases nl : v = s.par.nl
    · rw [if_pos (by simp [nl])] at counted
      rw [if_pos ⟨canonical, nl⟩]
      bv_omega
    · rw [if_neg (by simpa using nl), Nat.add_zero] at counted
      rw [if_neg fun h => nl h.2, counted]

/-- Settles O56: a launch leaves no byte and no line, and events keep the count by what they do to the lines. -/
theorem stepKeepsLineCount : Obligations.StepKeepsLineCount := by
  intro s t shape counted stepped
  exact step_keeps (P := LinesCounted) stepped counted (fun _ _ => ⟨fun _ => by simp, fun _ => rfl⟩)
    fun i c started event => event.keepsLinesCounted (coreShape_of_shapeOk shape started)

/-- In canonical mode the current line leaves room for one byte more and its `NL` (R141). -/
def LineFits (s : CoreState) : Prop :=
  s.par.cfg.canonical = true → (currentLineNewestFirst s.par (rxResident s)).length ≤ s.par.nRx - 2

theorem currentLine_concat (p : Params) (l : List Byte) (b : Byte) :
    currentLineNewestFirst p (l ++ [b]) = if b = p.nl then [] else b :: currentLineNewestFirst p l := by
  simp [currentLineNewestFirst, List.takeWhile_cons]

theorem length_currentLine_le (p : Params) (l : List Byte) : (currentLineNewestFirst p l).length ≤ l.length := by
  rw [currentLineNewestFirst, ← List.length_reverse (as := l)]
  exact (List.takeWhile_sublist _).length_le

/-- Reading the oldest byte shortens the current line or leaves it. -/
theorem length_currentLine_le_cons (p : Params) (v : Byte) (l : List Byte) :
    (currentLineNewestFirst p l).length ≤ (currentLineNewestFirst p (v :: l)).length := by
  rw [currentLineNewestFirst, currentLineNewestFirst, List.reverse_cons, List.takeWhile_append]
  split
  · simp_all
  · exact le_rfl

theorem CoreEvent.keepsLineFits {i : Instr} {s t : CoreState} (event : CoreEvent i s t) (shape : CoreShape s)
    (h : LineFits s) : LineFits t := by
  intro canonical
  rw [event.buffersMove.par] at canonical ⊢
  have fits := h canonical
  cases event.lineChange shape.rxOk with
  | takenBack cs noNl residents =>
    rw [← residents, currentLine_append_reverse noNl, List.length_append] at fits
    omega
  | admitted b room residents =>
    rw [residents, currentLine_concat]
    split
    case isTrue => exact Nat.zero_le _
    case isFalse notNl =>
      have line := length_currentLine_le s.par (rxResident s)
      have slots := isAdmitted_iff.mp room
      rw [slotsNeeded_of_ne_nl notNl, if_pos canonical, ringFree] at slots
      rw [rxResident, length_resident, ← rxResident] at line
      rw [List.length_cons]
      omega
  | read v _ residents =>
    rw [residents] at fits
    exact (length_currentLine_le_cons s.par v _).trans fits

/-- Settles O57: an empty buffer has no current line, and a byte is admitted to it only with a slot left for `NL`. -/
theorem stepKeepsLineRoom : Obligations.StepKeepsLineRoom := by
  intro s t shape fits stepped
  exact step_keeps (P := LineFits) stepped fits (fun _ _ _ => by simp [currentLineNewestFirst])
    fun i c started event => event.keepsLineFits (coreShape_of_shapeOk shape started)

/-! ### The registers (R27, R28, R48) -/

/-- A read writes `RXBUF` and `LineReadyCounter` and nothing else. -/
theorem readByte_frame (s : CoreState) : ∃ r n, (readByte s).2 = setLineReadyCounter n (setRxbuf r s) := by
  obtain same | ⟨-, taken⟩ := readByte_eq s
  · exact ⟨s.rxbuf, s.lineReadyCounter, same⟩
  · exact ⟨_, _, taken.trans (takeByte_eq _ s)⟩

theorem CoreEvent.keepsWidth {i : Instr} {s t : CoreState} (event : CoreEvent i s t)
    (h : s.eraseBacklog < 2 ^ s.par.ebW) : t.eraseBacklog < 2 ^ t.par.ebW := by
  rw [event.buffersMove.par]
  cases event with
  | receives _ received =>
    obtain ⟨-, rfl⟩ | ⟨-, rfl⟩ | frame := received.cases_flow
    · exact h
    · exact h
    · exact frame.inWidth h
  | fires _ branch => exact branch.frame.eraseBacklog.trans_lt h
  | reads =>
    obtain ⟨r, n, frame⟩ := readByte_frame s
    exact frame ▸ h
  | writes => exact h

/-- No event leaves a replay waiting for its first `BS` (R28). -/
theorem CoreEvent.keepsReplayStarted {i : Instr} {s t : CoreState} (event : CoreEvent i s t)
    (h : s.eraseState ≠ .sendBackspace1) : t.eraseState ≠ .sendBackspace1 := by
  cases event with
  | receives _ received =>
    obtain ⟨-, rfl⟩ | ⟨-, rfl⟩ | frame := received.cases_flow
    · exact h
    · exact h
    · rwa [frame.eraseState]
  | fires _ branch => exact branch.frame.eraseState h
  | reads =>
    obtain ⟨r, n, frame⟩ := readByte_frame s
    exact frame ▸ h
  | writes => exact h

/-- Only a byte that flow control takes halts output (R131, R133). -/
theorem CoreEvent.keepsRunning {i : Instr} {s t : CoreState} (event : CoreEvent i s t)
    (h : s.par.cfg.flow = false → s.haltOutput = false) : t.par.cfg.flow = false → t.haltOutput = false := by
  rw [event.buffersMove.par]
  intro noFlow
  cases event with
  | receives _ received =>
    obtain ⟨flow, rfl⟩ | ⟨-, rfl⟩ | frame := received.cases_flow
    · simp [noFlow] at flow
    · rfl
    · exact frame.haltOutput.trans (h noFlow)
  | fires _ branch => exact branch.frame.haltOutput.trans (h noFlow)
  | reads =>
    obtain ⟨r, n, frame⟩ := readByte_frame s
    exact frame ▸ h noFlow
  | writes => exact h noFlow

/-- Settles O58: register by register; that of the replay says something of a core not started too. -/
theorem stepKeepsRegisterRanges : Obligations.StepKeepsRegisterRanges := by
  intro s t inWidth replay running stepped
  refine ⟨step_keeps (P := fun c => c.eraseBacklog < 2 ^ c.par.ebW) stepped inWidth (fun _ _ => Nat.two_pow_pos _)
      fun _ _ _ event => event.keepsWidth, ?replay,
    step_keeps (P := fun c => c.par.cfg.flow = false → c.haltOutput = false) stepped running (fun _ _ _ => rfl)
      fun _ _ _ event => event.keepsRunning⟩
  case replay =>
    cases stepEffect_of_step stepped with
    | quiet same => exact same ▸ replay
    | launches _ _ _ core => simp [replayOk, core]
    | runs _ _ _ event => exact event.keepsReplayStarted replay

/-! ### All of them (R192, R251) -/

/-- With nothing resident and every register at its reset value the invariants ask only for launchable parameters. -/
theorem inv_atReset (p : Params) {started : Bool} (fit : started = true → launchable p = true) :
    Inv (State.atReset p started) := by
  have none : ∀ id n, resident id n emptyRing = [] := fun _ _ => resident_of_empty rfl
  refine ⟨⟨⟨fit, fun _ => ⟨rfl, rfl⟩⟩, fun running => ?rings⟩,
    fun _ => ⟨residentWritten_of_empty rfl, residentWritten_of_empty rfl⟩, fun _ => ⟨fun _ => ?counted, fun _ => rfl⟩,
    fun _ _ => ?fits, fun _ => Nat.two_pow_pos _, nofun, fun _ _ => rfl, nofun⟩
  case rings =>
    obtain ⟨⟨nRx, -⟩, ⟨nTx, -⟩, -⟩ := launchable_bounds (fit running)
    exact ⟨ringOk_reset (Nat.zero_lt_of_lt nRx) rfl rfl, ringOk_reset (Nat.zero_lt_of_lt nTx) rfl rfl⟩
  case counted =>
    change 0 = (resident .rx p.nRx emptyRing).count p.nl
    rw [none, List.count_nil]
  case fits =>
    change (currentLineNewestFirst p (resident .rx p.nRx emptyRing)).length ≤ _
    rw [none]
    exact Nat.zero_le _

/-- Settles O53: profile T1 is launchable, and before the first `RESET` nothing is asked of the parameters. -/
theorem resetStateMeetsInvariants : Obligations.ResetStateMeetsInvariants :=
  ⟨inv_atReset Params.t1 fun _ => by decide, fun p => inv_atReset p nofun⟩

theorem inv_step {s t : State} (h : Inv s) (stepped : step s = .next t) : Inv t := by
  obtain ⟨shape, written, counted, fits, inWidth, replay, running, stranded⟩ := h
  obtain ⟨inWidth', replay', running'⟩ := stepKeepsRegisterRanges s t inWidth replay running stepped
  exact ⟨stepKeepsShape s t shape stepped, stepKeepsResidentWritten s t shape written stepped,
    stepKeepsLineCount s t shape counted stepped, stepKeepsLineRoom s t shape fits stepped, inWidth', replay', running',
    stepStrandsNothing s t stranded stepped⟩

theorem run_succ_next {k : Nat} {s t : State} (ran : core.run (k + 1) s = .next t) :
    ∃ u, step s = .next u ∧ core.run k u = .next t := by
  have unrolled := Host.Core.run.eq_2 core s k
  rw [ran] at unrolled
  split at unrolled
  case h_1 u stepped => exact ⟨u, stepped, unrolled.symm⟩
  all_goals cases unrolled

/-- Settles O60: by the number of steps. -/
theorem runKeepsInvariants : Obligations.RunKeepsInvariants := by
  intro k
  induction k with
  | zero =>
    intro s t h ran
    obtain rfl := Host.Outcome.next.inj ran
    exact h
  | succ k ih =>
    intro s t h ran
    obtain ⟨u, stepped, rest⟩ := run_succ_next ran
    exact ih u t (inv_step h stepped) rest

end Machine

end Sys2Proof
